-- ==== Sys2Proof/Word.lean ====
section
/-! DEFINITION. The word types of RGBRAMP and the triple over its three channels (spec/00_scope.md R8, R12, R13). -/

namespace Sys2Proof

/-- `u8`: a Channel Value or the Brightness, 0 to 255 (R8, R12). -/
abbrev Byte := BitVec 8

/-- `u16`: an operand field `A`, `B` or `C` of the command word (R72). -/
abbrev Half := BitVec 16

/-- The 64-bit command word `W` (R71). -/
abbrev Word := BitVec 64

/-- The three channels, in the order the spec lists them: red, green, blue (R8, R13). -/
inductive Channel where
  | red
  | green
  | blue
  deriving DecidableEq, Repr

/-- One value for each channel: what the spec writes `x_r`, `x_g`, `x_b`. -/
structure Rgb (α : Type) where
  r : α
  g : α
  b : α
  deriving DecidableEq, Repr, Inhabited

/-- The value of channel `c`: the spec's `x_c` for `c in {r, g, b}` (R13). -/
def Rgb.get {α : Type} (x : Rgb α) : Channel → α
  | .red => x.r
  | .green => x.g
  | .blue => x.b

/-- The same function on each of the three channels (R116: the lanes are treated alike). -/
def Rgb.map {α β : Type} (f : α → β) (x : Rgb α) : Rgb β := ⟨f x.r, f x.g, f x.b⟩

/-- A function of two values of the same channel, on each of the three channels. -/
def Rgb.map₂ {α β γ : Type} (f : α → β → γ) (x : Rgb α) (y : Rgb β) : Rgb γ :=
  ⟨f x.r y.r, f x.g y.g, f x.b y.b⟩

end Sys2Proof
end

