-- ==== Sys2Proof/Config.lean ====
section
/-! DEFINITION. The configuration: every named parameter of spec/00_scope.md R7, the values derived from them, the two
configurations the spec names (CFG_REF, CFG_SMALL), and the model's one free value. -/

namespace Sys2Proof

/-- The parameters of R7, which the spec leaves open and a model takes as an argument. The two read-only tables are part
of the configuration (R33, R50). A model is stated over configurations that meet `Config.WF` (WellFormed.lean, R9). -/
structure Config where
  /-- `TW`: width in bits of `now` and of the three stamps. -/
  tw : Nat
  /-- `TIME_UNIT`, the duration of one count of `now`, here in nanoseconds: informative only, no rule reads it. -/
  timeUnitNs : Nat
  /-- `RAMP_INTERVAL`: minimum time between two ramp steps. -/
  rampInterval : Nat
  /-- `CYCLE_TOTAL`: time to traverse the whole palette once. -/
  cycleTotal : Nat
  /-- `PALETTE[0..PAL_LEN-1]` (R54). -/
  palette : List (Rgb Byte)
  /-- `REPORT_INTERVAL`: minimum time between two color-changed events. -/
  reportInterval : Nat
  /-- `PWM_BITS`: width in bits of a duty value. -/
  pwmBits : Nat
  /-- `PWM_MAX`: the largest duty value. -/
  pwmMax : Nat
  /-- `GAMMA[0..255]` (R51). -/
  gamma : Vector Nat 256
  /-- `INIT_CUR`: reset value of the three current channel values (open parameter, D4). -/
  initCur : Rgb Byte
  deriving DecidableEq, Repr

namespace Config

/-- `PAL_LEN`, the number of palette entries (R7, R54). -/
def palLen (c : Config) : Nat := c.palette.length

/-- `CYCLE_INTERVAL = floor(CYCLE_TOTAL / PAL_LEN)` (R10). -/
def cycleInterval (c : Config) : Nat := c.cycleTotal / c.palLen

/-- `CW = max(1, ceil(log2(PAL_LEN)))`, the width in bits of the cursor (R24). -/
def cursorBits (c : Config) : Nat := max 1 (Nat.clog 2 c.palLen)

/-- `MAX_LOGICAL`, the largest value of the logical color range and the divisor of the Output Driver (R8, R166). -/
def maxLogical : Nat := 255

/-- FREE VALUE (notes/assumptions/3.md). What `PaletteRead` gives outside `0..PAL_LEN-1`: spec/93 K6 says `any value`,
R55 lets a model give it any total extension. Nothing in Lean can tell what it is; no reachable state reads it. -/
opaque paletteBeyond : Nat → Rgb Byte

/-- `GAMMA_REF[i] = floor(i * i * 1023 / 65025)` (R53). -/
def gammaRef : Vector Nat 256 := ⟨⟨(List.range 256).map fun i => i * i * 1023 / 65025⟩, by simp⟩

/-- CFG_REF, the reference configuration of R7. -/
def ref : Config where
  tw := 32
  timeUnitNs := 1000
  rampInterval := 500
  cycleTotal := 120000000
  palette := [⟨255, 0, 0⟩, ⟨0, 255, 0⟩, ⟨0, 0, 255⟩]
  reportInterval := 5000000
  pwmBits := 10
  pwmMax := 1023
  gamma := gammaRef
  initCur := ⟨0, 0, 0⟩

/-- CFG_SMALL, the small test configuration of R11. -/
def small : Config :=
  { ref with tw := 16, rampInterval := 5, cycleTotal := 120, reportInterval := 50 }

end Config

end Sys2Proof
end

