-- ==== Sys2Proof/Syntax.lean ====
section
/-! DEFINITION. The five operations of RGBRAMP (one constructor per row of spec/opcode_table.json), the assembly syntax
of spec/30_encoding.md R90, R95 and the trace lines of R91. -/

namespace Sys2Proof

/-- The five operations (R70). Operands are the raw fields of the command word, BEFORE clamping (R78): every value of
these types is encodable (R75, R76, R77), so every term is a well-formed instruction by its type. -/
inductive Instr where
  /-- `POLL`: one iteration of the control loop (R180). -/
  | poll
  /-- `SETPOWER v`: manual power command (R132). -/
  | setPower (v : Bool)
  /-- `SETCOLOR red, green, blue`: manual color command (R133). -/
  | setColor (red green blue : Half)
  /-- `SETBRIGHT value`: manual brightness command (R114). -/
  | setBright (value : Half)
  /-- `CONNECT`: the startup event (R135). -/
  | connect
  deriving DecidableEq, Repr

/-- One row of the opcode map with its match and mask (R74 to R79, spec/opcode_table.json). -/
structure OpcodeRow where
  mnemonic : String
  pattern : Word
  mask : Word
  deriving DecidableEq, Repr

/-- The operand of SETPOWER as an assembly line spells it: a number, or one of the two spellings `ON` and `OFF` (R90, R95). -/
inductive PowerArg where
  | num (v : Nat)
  | on
  | off
  deriving DecidableEq, Repr

/-- An assembly line of R90 as read from its text: operands are plain unsigned numbers and may be out of range, in which
case the assembler refuses the line. -/
inductive AsmOp where
  | poll
  | setPower (v : PowerArg)
  | setColor (red green blue : Nat)
  | setBright (value : Nat)
  | connect
  deriving DecidableEq, Repr

/-- A piece of an assembly line's text (R90): a run of characters that are neither space nor comma, or a comma. -/
inductive Token where
  | word (chars : List Char)
  | comma
  deriving DecidableEq, Repr

/-- A trace line `@<t> <operation>` (R91): what the host presents, and at which value of `now`. -/
structure TraceLine where
  time : Nat
  op : AsmOp
  deriving DecidableEq, Repr

end Sys2Proof
end

