-- ==== Sys2Proof/WellFormed.lean ====
section
/-! DEFINITION. The checks: which configurations a model is stated over (spec/00_scope.md R7, R9), which assembly lines an
assembler takes (R90) and which trace lines are legal (R91). An `Instr` needs no check: its operand types are its fields. -/

namespace Sys2Proof

/-- The clock and the intervals: `TW >= 1`, every interval `< 2^TW` (R7). -/
abbrev Config.TimeWF (c : Config) : Prop :=
  1 ≤ c.tw ∧ c.rampInterval < 2 ^ c.tw ∧ c.cycleTotal < 2 ^ c.tw ∧ c.reportInterval < 2 ^ c.tw

/-- The duty range: `PWM_BITS >= 1`, `1 <= PWM_MAX <= 2^PWM_BITS - 1` (R7). -/
abbrev Config.PwmWF (c : Config) : Prop :=
  1 ≤ c.pwmBits ∧ 1 ≤ c.pwmMax ∧ c.pwmMax < 2 ^ c.pwmBits

/-- The gamma table: every entry in `0..PWM_MAX`, monotonically non-decreasing (R7, R51). -/
abbrev Config.GammaWF (c : Config) : Prop :=
  (∀ i : Fin 256, c.gamma[i.val] ≤ c.pwmMax) ∧
  (∀ i : Fin 255, c.gamma[i.val] ≤ c.gamma[i.val + 1])

/-- A configuration is well-formed when every constraint of R7 holds (R9). The components of a palette entry and of
`INIT_CUR` are in 0..255 by type. -/
abbrev Config.WF (c : Config) : Prop :=
  c.TimeWF ∧ 1 ≤ c.palLen ∧ c.PwmWF ∧ c.GammaWF

/-- The ranges of R90: `v` is 0 or 1, a color or brightness operand is 0..65535. -/
def AsmOp.wf : AsmOp → Bool
  | .poll => true
  | .setPower (.num v) => decide (v ≤ 1)
  | .setPower .on => true
  | .setPower .off => true
  | .setColor red green blue => decide (red ≤ 65535) && decide (green ≤ 65535) && decide (blue ≤ 65535)
  | .setBright value => decide (value ≤ 65535)
  | .connect => true

/-- A trace line is legal when its operation is and `0 <= t < 2^TW` (R91). -/
def TraceLine.wf (c : Config) (l : TraceLine) : Bool := decide (l.time < 2 ^ c.tw) && l.op.wf

end Sys2Proof
end

