-- ==== Sys2Proof/Decode.lean ====
section
/-! DEFINITION. The command word: its fields (spec/30_encoding.md R72), the decode procedure total on all 2^64 words
(R81), the encoder (R74 to R79), the opcode table, and the assembler, from the text of a line (R90, R91). -/

namespace Sys2Proof

/-- Why a word is rejected (R80, R201). -/
inductive Reject where
  /-- `ILLEGAL_OPCODE`: `W[63:56] > 0x04`. -/
  | illegalOpcode
  /-- `RESERVED_NONZERO`: a must-be-zero bit of R73 is 1. -/
  | reservedNonzero
  deriving DecidableEq, Repr

/-- What decoding a word gives: one of the five operations or a rejection by name (R81, R82: nothing else). -/
inductive Decoded where
  | op (i : Instr)
  | reject (why : Reject)
  deriving DecidableEq, Repr

/-- `opcode = W[63:56]` (R72). -/
def fieldOpcode (w : Word) : Byte := w.extractLsb' 56 8

/-- `reserved = W[55:48]` (R72). -/
def fieldReserved (w : Word) : Byte := w.extractLsb' 48 8

/-- `A = W[47:32]` (R72). -/
def fieldA (w : Word) : Half := w.extractLsb' 32 16

/-- `B = W[31:16]` (R72). -/
def fieldB (w : Word) : Half := w.extractLsb' 16 16

/-- `C = W[15:0]` (R72). -/
def fieldC (w : Word) : Half := w.extractLsb' 0 16

/-- The `case op of` of R81, for an opcode not above 0x04 and a zero reserved byte. -/
def decodeOperands (op : Byte) (a b c : Half) : Decoded :=
  if op = 0x00 then
    if a ≠ 0 ∨ b ≠ 0 ∨ c ≠ 0 then .reject .reservedNonzero else .op .poll
  else if op = 0x01 then
    if a.extractLsb' 1 15 ≠ 0 ∨ b ≠ 0 ∨ c ≠ 0 then .reject .reservedNonzero
    else .op (.setPower (a.getLsbD 0))
  else if op = 0x02 then .op (.setColor a b c)
  else if op = 0x03 then
    if b ≠ 0 ∨ c ≠ 0 then .reject .reservedNonzero else .op (.setBright a)
  else
    if a ≠ 0 ∨ b ≠ 0 ∨ c ≠ 0 then .reject .reservedNonzero else .op .connect

/-- The decode procedure of R81: the opcode is checked before the must-be-zero bits (R203). -/
def decode (w : Word) : Decoded :=
  if 0x04 < fieldOpcode w then .reject .illegalOpcode
  else if fieldReserved w ≠ 0 then .reject .reservedNonzero
  else decodeOperands (fieldOpcode w) (fieldA w) (fieldB w) (fieldC w)

/-- The word of an instruction, by the formulas of R74 to R77 and R79. -/
def encode : Instr → Word
  | .poll => 0x0000000000000000#64
  | .setPower v => 0x0100000000000000#64 ||| ((BitVec.ofBool v).setWidth 64 <<< 32)
  | .setColor red green blue =>
    0x0200000000000000#64 ||| (red.setWidth 64 <<< 32) ||| (green.setWidth 64 <<< 16) ||| blue.setWidth 64
  | .setBright value => 0x0300000000000000#64 ||| (value.setWidth 64 <<< 32)
  | .connect => 0x0400000000000000#64

/-- The row of an instruction: its mnemonic, match and mask (R74 to R77, R79). -/
def rowOf : Instr → OpcodeRow
  | .poll => ⟨"POLL", 0x0000000000000000, 0xFFFFFFFFFFFFFFFF⟩
  | .setPower _ => ⟨"SETPOWER", 0x0100000000000000, 0xFFFFFFFEFFFFFFFF⟩
  | .setColor _ _ _ => ⟨"SETCOLOR", 0x0200000000000000, 0xFFFF000000000000⟩
  | .setBright _ => ⟨"SETBRIGHT", 0x0300000000000000, 0xFFFF0000FFFFFFFF⟩
  | .connect => ⟨"CONNECT", 0x0400000000000000, 0xFFFFFFFFFFFFFFFF⟩

/-- The opcode table, one row per operation, in opcode order (R73). -/
def opcodeTable : List OpcodeRow :=
  [rowOf .poll, rowOf (.setPower false), rowOf (.setColor 0 0 0), rowOf (.setBright 0), rowOf .connect]

/-- `w` belongs to a row: its masked bits are the row's match. -/
def OpcodeRow.covers (row : OpcodeRow) (w : Word) : Bool := w &&& row.mask == row.pattern

/-- The instruction an assembly line names; `none` where an operand is outside its field's range. The assembler does not
clamp: clamping is the hardware's (R90). `ON` is 1 and `OFF` is 0 (R90, R95). -/
def AsmOp.toInstr (a : AsmOp) : Option Instr :=
  if a.wf then
    match a with
    | .poll => some .poll
    | .setPower (.num v) => some (.setPower (decide (v = 1)))
    | .setPower .on => some (.setPower true)
    | .setPower .off => some (.setPower false)
    | .setColor red green blue =>
      some (.setColor (BitVec.ofNat 16 red) (BitVec.ofNat 16 green) (BitVec.ofNat 16 blue))
    | .setBright value => some (.setBright (BitVec.ofNat 16 value))
    | .connect => some .connect
  else none

/-- The assembler of R90: the word of a line, or a refusal. -/
def assemble (a : AsmOp) : Option Word := a.toInstr.map encode

/-! The text of an assembly line (R90, R91), as a list of characters. Where spaces may stand is notes/assumptions/12.md. -/

/-- The run of characters gathered so far, last one first, before the tokens that follow it. -/
def flushWord : List Char → List Token → List Token
  | [], rest => rest
  | c :: cs, rest => .word (c :: cs).reverse :: rest

/-- The tokens of a line: spaces separate, a comma is a token. -/
def lexLine (gathered : List Char) : List Char → List Token
  | [] => flushWord gathered []
  | c :: cs =>
    if c = ' ' then flushWord gathered (lexLine [] cs)
    else if c = ',' then flushWord gathered (.comma :: lexLine [] cs)
    else lexLine (c :: gathered) cs

/-- The value of a digit, decimal or hexadecimal. -/
def digitValue (c : Char) : Option Nat :=
  if '0' ≤ c ∧ c ≤ '9' then some (c.toNat - 48)
  else if 'A' ≤ c ∧ c ≤ 'F' then some (c.toNat - 55)
  else if 'a' ≤ c ∧ c ≤ 'f' then some (c.toNat - 87)
  else none

/-- The number whose digits in `base` follow the digits of `n`. -/
def readDigits (base n : Nat) : List Char → Option Nat
  | [] => some n
  | c :: cs =>
    match digitValue c with
    | some d => if d < base then readDigits base (base * n + d) cs else none
    | none => none

/-- A decimal unsigned integer: at least one digit. -/
def readDecimal : List Char → Option Nat
  | [] => none
  | c :: cs => readDigits 10 0 (c :: cs)

/-- "A decimal or 0x-hex unsigned integer" (R90). -/
def readNumber : List Char → Option Nat
  | '0' :: 'x' :: c :: cs => readDigits 16 0 (c :: cs)
  | cs => readDecimal cs

/-- The operand of SETPOWER: `0` or `1`, also written `OFF` or `ON` (R90, R95). -/
def readPower (cs : List Char) : Option PowerArg :=
  if cs = ['O', 'N'] then some .on
  else if cs = ['O', 'F', 'F'] then some .off
  else (readDecimal cs).map .num

/-- The operation a line's tokens spell (R90); `none` for any other line. -/
def readTokens : List Token → Option AsmOp
  | [.word m] =>
    if m = ['P', 'O', 'L', 'L'] then some .poll
    else if m = ['C', 'O', 'N', 'N', 'E', 'C', 'T'] then some .connect
    else none
  | [.word m, .word x] =>
    if m = ['S', 'E', 'T', 'P', 'O', 'W', 'E', 'R'] then (readPower x).map .setPower
    else if m = ['S', 'E', 'T', 'B', 'R', 'I', 'G', 'H', 'T'] then (readNumber x).map .setBright
    else none
  | [.word m, .word r, .comma, .word g, .comma, .word b] =>
    if m = ['S', 'E', 'T', 'C', 'O', 'L', 'O', 'R'] then
      match readNumber r, readNumber g, readNumber b with
      | some red, some green, some blue => some (.setColor red green blue)
      | _, _, _ => none
    else none
  | _ => none

/-- The word of an assembly line's text, or a refusal (R90). -/
def assembleText (line : List Char) : Option Word := (readTokens (lexLine [] line)).bind assemble

/-- The trace line a text `@<t>  <operation>` spells, `<t>` decimal (R91). -/
def readTraceLine (line : List Char) : Option TraceLine :=
  match lexLine [] line with
  | .word ('@' :: t) :: rest =>
    match readDecimal t, readTokens rest with
    | some time, some op => some ⟨time, op⟩
    | _, _ => none
  | _ => none

/-- The instruction the decoder reads from a table row's bits `w`. A command word is 64 bits and arrives whole on the
command port (R57, R71, R83), so bit `k` of `w` is `W[k]` and there is no byte order to apply. -/
def decodeTableWord (nbits w : Nat) : Option Instr :=
  if w % 2 ^ nbits < 2 ^ 64 then
    match decode (BitVec.ofNat 64 (w % 2 ^ nbits)) with
    | .op i => some i
    | .reject _ => none
  else none

end Sys2Proof
end

