-- ==== Sys2Proof/Machine/State.lean ====
section
/-! DEFINITION. State as plain data: the elements of the table of spec/10_state.md R20 (`Regs`), and beside them the configuration,
the host's pending port cycles and the results standing on the output ports; the reset state (R35); faults and refusals. -/

namespace Sys2Proof.Machine

/-- The record `s` of R20: the whole state of the block. R20 counts 18 elements; its table, the reset state of R35 and
spec/95 name 17. DESIGN CHOICE (notes/assumptions/14.md): the state is the 17 elements named, nothing else. -/
structure Regs where
  /-- `cur_r`, `cur_g`, `cur_b`: current channel values (R21). -/
  cur : Rgb Byte
  /-- `tgt_r`, `tgt_g`, `tgt_b`: target channel values (R22). -/
  tgt : Rgb Byte
  /-- `bright`: brightness (R23). -/
  bright : Byte
  /-- `cursor`: palette cursor, in `0..PAL_LEN-1` (R24, `State.Inv`). -/
  cursor : Nat
  /-- `power`: Power State (R25). -/
  power : Bool
  /-- `auto`: Auto Mode Flag (R26). -/
  auto : Bool
  /-- `connected`: one-shot startup guard (R27). -/
  connected : Bool
  /-- `ramp_last`, a `uTW`: stamp of the ramp timer (R28). -/
  rampLast : Nat
  /-- `cycle_last`, a `uTW`: stamp of the auto-cycle timer (R29). -/
  cycleLast : Nat
  /-- `report_last`, a `uTW`: stamp of the reporting throttle (R30). -/
  reportLast : Nat
  /-- `out_r`, `out_g`, `out_b`, each a `uPWM`: output registers (R31). -/
  out : Rgb Nat
  deriving DecidableEq, Repr

/-- The status of a step (R201). Code 3 is unused, so the type has three values (spec/93 K9). -/
inductive Status where
  | ok
  | illegalOpcode
  | reservedNonzero
  deriving DecidableEq, Repr

/-- The events of one step (R182, R210): three optional payloads. -/
structure Events where
  /-- `EV_STATE(v)` (R211). -/
  state : Option Bool
  /-- `EV_COLOR(r, g, b)` (R212). -/
  color : Option (Rgb Byte)
  /-- `EV_BRIGHT(value)` (R213). -/
  bright : Option Half
  deriving DecidableEq, Repr

/-- No event. -/
def Events.quiet : Events := ⟨none, none, none⟩

/-- The input ports during one `clk` cycle (R84): what the host presents at one rising edge. The value on the `now` port
is kept as a number; the port carries its low `TW` bits (`sampleTime`, notes/assumptions/5.md). -/
structure HostCycle where
  rst : Bool
  cmdValid : Bool
  cmdWord : Word
  now : Nat
  deriving DecidableEq, Repr

/-- What the model carries from one clock edge to the next. -/
structure State where
  /-- The configuration, fixed for the machine (R7, R33): no step changes it. Model's own field (notes/assumptions/1.md). -/
  cfg : Config
  /-- The block's state (R20). -/
  regs : Regs
  /-- The value of `now` sampled with the word being executed (R183). Model's own field (notes/assumptions/4.md). -/
  now : Nat
  /-- The port cycles the host has still to present, the next one first. Model's own field (notes/assumptions/2.md). -/
  host : List HostCycle
  /-- `cmd_status` of the last edge (R187, R201): an output port, read by no operation. -/
  status : Status
  /-- The event ports after the last edge (R187, R210): output ports, read by no operation. -/
  events : Events
  deriving DecidableEq, Repr

/-- Faults: NONE. "No fatal errors exist in the core": the block has no halted, faulted or stuck state (R6, R186). -/
inductive Fault : Type
  deriving DecidableEq, Repr

/-- Refusals. -/
inductive Refusal where
  /-- Raised only by an arm of `exec` that has no meaning yet; safe. No arm of this model raises it. -/
  | notModelled (mnemonic : String)
  deriving DecidableEq, Repr

/-- A step of this machine. -/
abbrev Result := Host.Outcome State Fault Refusal

/-- The reset values of R35. The stamps are "born expired": `(2^TW - interval) mod 2^TW` (R29, R30). -/
def Regs.reset (cfg : Config) : Regs where
  cur := cfg.initCur
  tgt := ⟨255, 255, 255⟩
  bright := 255
  cursor := 0
  power := true
  auto := true
  connected := false
  rampLast := 0
  cycleLast := (2 ^ cfg.tw - cfg.cycleInterval) % 2 ^ cfg.tw
  reportLast := (2 ^ cfg.tw - cfg.reportInterval) % 2 ^ cfg.tw
  out := ⟨0, 0, 0⟩

/-- The machine right after reset under a configuration, with no port cycle presented yet. -/
def State.resetFor (cfg : Config) : State where
  cfg := cfg
  regs := Regs.reset cfg
  now := 0
  host := []
  status := .ok
  events := .quiet

/-- The machine right after reset, under the reference configuration CFG_REF (notes/assumptions/1.md). -/
def State.reset : State := State.resetFor Config.ref

end Sys2Proof.Machine
end

