-- ==== Sys2Proof/Machine/Flags.lean ====
section
/-! DEFINITION. The flags of the Mode Arbiter (spec/42_mode_arbiter.md R130, R131) and the status code (R201). -/

namespace Sys2Proof.Machine

/-- The Auto Mode Flag after `SetPowerAction(v)`: `v` when `v` differs from the old power value, else as it was (R131). -/
def autoAfterPower (v : Bool) (s : Regs) : Bool := if v ≠ s.power then v else s.auto

/-- `cmd_status[1:0]` (R201). -/
def statusCode : Status → BitVec 2
  | .ok => 0
  | .illegalOpcode => 1
  | .reservedNonzero => 2

/-- The status a rejection reports (R201). -/
def rejectStatus : Reject → Status
  | .illegalOpcode => .illegalOpcode
  | .reservedNonzero => .reservedNonzero

/-- The arbiter state `AUTO`: `power = 1`, `auto = 1` (R130). -/
def modeAuto (s : Regs) : Bool := s.power && s.auto

/-- The arbiter state `MANUAL`: `power = 1`, `auto = 0` (R130). -/
def modeManual (s : Regs) : Bool := s.power && !s.auto

/-- The arbiter state `OFF`: `power = 0`, `auto = 0` (R130). The fourth combination is unreachable. -/
def modeOff (s : Regs) : Bool := !s.power && !s.auto

end Sys2Proof.Machine
end

