-- ==== Sys2Proof/Machine/Operands.lean ====
section
/-! DEFINITION. Operand assembly (spec/30_encoding.md R78) and the packing of a color triple (spec/20_memory.md R56). -/

namespace Sys2Proof.Machine

/-- `clamp8(x) = min(x, 255)`: saturation, not truncation, of a 16-bit unsigned field (R78). -/
def clamp8 (x : Half) : Byte := BitVec.ofNat 8 (min x.toNat 255)

/-- The three operands of SETCOLOR, each clamped on its own (R133). -/
def clampColor (red green blue : Half) : Rgb Byte := ⟨clamp8 red, clamp8 green, clamp8 blue⟩

/-- A color triple as 24 bits: red in 23:16, green in 15:8, blue in 7:0 (R56). -/
def packColor (x : Rgb Byte) : BitVec 24 := x.r ++ x.g ++ x.b

/-- The value a `TW`-bit port carries for the number `t` (R183, R84). -/
def sampleTime (cfg : Config) (t : Nat) : Nat := t % 2 ^ cfg.tw

end Sys2Proof.Machine
end

