-- ==== Sys2Proof/Machine/Ops.lean ====
section
/-! DEFINITION. The shared operations: modular time and the elapsed test (R221), the table reads (R52, R55), the writes the
rules share (R110, R111, R151), how an operation ends (R182), and the rejection of a word, the block's only exception
(R200), beside which there is no return operation (R205); reset (R240) and the idle cycle (R184). -/

namespace Sys2Proof.Machine

/-- `sub_TW(a, b) = (a - b) mod 2^TW` (R13, R221). -/
def subTW (tw a b : Nat) : Nat := (BitVec.ofNat tw a - BitVec.ofNat tw b).toNat

/-- `elapsed(now, last, I) = sub_TW(now, last) >= I` (R221). -/
def elapsed (cfg : Config) (now last interval : Nat) : Bool := decide (interval ≤ subTW cfg.tw now last)

/-- `GammaRead(i)`: total, every `u8` is a valid index (R52). -/
def gammaRead (cfg : Config) (i : Byte) : Nat := cfg.gamma[i.toNat]'i.isLt

/-- `PaletteRead(i)` for `0 <= i < PAL_LEN` (R55); a free value outside that range (spec/93 K6, notes/assumptions/3.md). -/
def paletteRead (cfg : Config) (i : Nat) : Rgb Byte :=
  match cfg.palette[i]? with
  | some entry => entry
  | none => Config.paletteBeyond i

/-- `setTargets(red, green, blue)`: the three targets, together, and nothing else (R110). -/
def setTargets (t : Rgb Byte) (s : Regs) : Regs := { s with tgt := t }

/-- `setBrightnessTarget(value)`: the brightness, at once, and nothing else (R111). -/
def setBrightnessTarget (value : Byte) (s : Regs) : Regs := { s with bright := value }

/-- The cursor's next value, `(cursor + 1) mod PAL_LEN` (R151). -/
def nextCursor (cfg : Config) (cursor : Nat) : Nat := (cursor + 1) % cfg.palLen

/-- `emit EV_STATE(v)` (R211). -/
def emitState (v : Bool) : Events := { Events.quiet with state := some v }

/-- `emit EV_COLOR(r, g, b)` (R212). -/
def emitColor (t : Rgb Byte) : Events := { Events.quiet with color := some t }

/-- `emit EV_BRIGHT(value)`, the operand as received (R213). -/
def emitBright (value : Half) : Events := { Events.quiet with bright := some value }

/-- An operation ends: its writes take effect, `status <- OK`, its events stand on the event ports (R182, R187). -/
def State.complete (r : Regs) (ev : Events) (s : State) : State :=
  { s with regs := r, status := .ok, events := ev }

/-- `reject(code)`: the state as it was, a non-zero status, no event, nothing saved (R200, R204). -/
def State.reject (why : Reject) (s : State) : State :=
  { s with status := rejectStatus why, events := .quiet }

/-- A cycle that follows no step: no state change, `cmd_status = 0`, no event (R184, R187). -/
def State.idle (s : State) : State := { s with status := .ok, events := .quiet }

/-- An edge with `rst = 1`: the reset state of R35, no step, no event (R240). The host's clock goes on (R183). -/
def State.applyReset (s : State) : State :=
  { s with regs := Regs.reset s.cfg, status := .ok, events := .quiet }

/-- `now` is sampled with the command word that is executed (R183). -/
def State.sample (t : Nat) (s : State) : State := { s with now := sampleTime s.cfg t }

end Sys2Proof.Machine
end

