-- ==== Sys2Proof/Machine/AutoCycle.lean ====
section
/-! DEFINITION. The Auto-Cycle Timer (spec/43_auto_cycle.md): no operation of the command port; POLL runs it. -/

namespace Sys2Proof.Machine

/-- The auto-cycle timer's test, `elapsed(now, s.cycle_last, CYCLE_INTERVAL)` (R150). -/
def cycleDue (cfg : Config) (now : Nat) (s : Regs) : Bool := elapsed cfg now s.cycleLast cfg.cycleInterval

/-- The writes of a firing `CycleTick`: stamp, targets from the entry AT the cursor, cursor advanced (R150). -/
def cycleFire (cfg : Config) (now : Nat) (s : Regs) : Regs :=
  setTargets (paletteRead cfg s.cursor)
    { s with cycleLast := now, cursor := nextCursor cfg s.cursor }

/-- `CycleTick(now)`: it does not read `auto`; the test is in POLL (R150, R152). -/
def cycleTick (cfg : Config) (now : Nat) (s : Regs) : Regs :=
  if cycleDue cfg now s then cycleFire cfg now s else s

end Sys2Proof.Machine
end

