-- ==== Sys2Proof/Machine/GammaLut.lean ====
section
/-! DEFINITION. The Gamma Lookup Table (spec/40_gamma_lut.md): two pure functions, no operation of the command port. -/

namespace Sys2Proof.Machine

/-- `GammaLookup(x) = GammaRead(x)` (R100). -/
def gammaLookup (cfg : Config) (x : Byte) : Nat := gammaRead cfg x

/-- `currentDutyCycles()`: the three current values through the one table, before brightness and power gate (R102, R103). -/
def currentDutyCycles (cfg : Config) (s : Regs) : Rgb Nat := s.cur.map (gammaLookup cfg)

end Sys2Proof.Machine
end

