-- ==== Sys2Proof/Machine/OutputDriver.lean ====
section
/-! DEFINITION. The Output Driver (spec/44_output_driver.md). -/

namespace Sys2Proof.Machine

/-- The final level of one channel's duty `d`: `power ? floor(bright * d / 255) : 0`, the product exact (R165, R166). -/
def scaleDuty (s : Regs) (d : Nat) : Nat :=
  if s.power then s.bright.toNat * d / Config.maxLogical else 0

/-- `OutputLevel(x)` (R166). -/
def outputLevel (cfg : Config) (s : Regs) (x : Byte) : Nat := scaleDuty s (gammaLookup cfg x)

/-- `OutputDriver()`: the three output registers, together (R166). -/
def outputDriver (cfg : Config) (s : Regs) : Regs :=
  { s with out := (currentDutyCycles cfg s).map (scaleDuty s) }

end Sys2Proof.Machine
end

