-- ==== Sys2Proof/Machine/RampEngine.lean ====
section
/-! DEFINITION. The Ramp Engine (spec/41_ramp_engine.md) and its one operation, SETBRIGHT. -/

namespace Sys2Proof.Machine

/-- `step1(cur, tgt)`, the saturating unit step (R112). -/
def step1 (cur tgt : Byte) : Byte :=
  if cur < tgt then cur + 1 else if tgt < cur then cur - 1 else cur

/-- The ramp timer's test, `elapsed(now, s.ramp_last, RAMP_INTERVAL)` (R113). -/
def rampDue (cfg : Config) (now : Nat) (s : Regs) : Bool := elapsed cfg now s.rampLast cfg.rampInterval

/-- The writes of a firing `RampTick`: stamp and three steps, THEN the Output Driver, which sees the new values (R113). -/
def rampFire (cfg : Config) (now : Nat) (s : Regs) : Regs :=
  outputDriver cfg { s with rampLast := now, cur := s.cur.map₂ step1 s.tgt }

/-- `RampTick(now)`: gated by its timer only, not by `power` or `auto` (R113, R119). -/
def rampTick (cfg : Config) (now : Nat) (s : Regs) : Regs :=
  if rampDue cfg now s then rampFire cfg now s else s

/-- SETBRIGHT `value` (R114): the clamped value is stored, the operand as received is echoed. -/
def execSetBright (value : Half) (s : State) : Result :=
  .next (s.complete (setBrightnessTarget (clamp8 value) s.regs) (emitBright value))

end Sys2Proof.Machine
end

