-- ==== Sys2Proof/Machine/ControlLoop.lean ====
section
/-! DEFINITION. The control loop (spec/45_control_loop.md) and its operation, POLL. -/

namespace Sys2Proof.Machine

/-- The auto-cycle half of POLL: run when `auto = 1`, skipped entirely otherwise (R152, R180). -/
def autoTick (cfg : Config) (now : Nat) (s : Regs) : Regs := if s.auto then cycleTick cfg now s else s

/-- One iteration of the control loop: the Auto-Cycle Timer before the Ramp Engine (R180, R181). -/
def pollRegs (cfg : Config) (now : Nat) (s : Regs) : Regs := rampTick cfg now (autoTick cfg now s)

/-- POLL (R180): no flag, no event, status OK. -/
def execPoll (s : State) : Result := .next (s.complete (pollRegs s.cfg s.now s.regs) .quiet)

end Sys2Proof.Machine
end

