-- ==== Sys2Proof/Machine/ModeArbiter.lean ====
section
/-! DEFINITION. The Mode Arbiter (spec/42_mode_arbiter.md) and its operations SETPOWER, SETCOLOR, CONNECT. -/

namespace Sys2Proof.Machine

/-- `SetPowerAction(v)` (R131): `auto` follows `v` when the power value changes, `power` is set unconditionally. Every
caller emits `EV_STATE(v)`. -/
def setPowerAction (v : Bool) (s : Regs) : Regs := { s with auto := autoAfterPower v s, power := v }

/-- SETPOWER `v` (R132). -/
def execSetPower (v : Bool) (s : State) : Result :=
  .next (s.complete (setPowerAction v s.regs) (emitState v))

/-- The reporting throttle's test, `elapsed(now, s.report_last, REPORT_INTERVAL)` (R133, R224). -/
def reportDue (cfg : Config) (now : Nat) (s : Regs) : Bool := elapsed cfg now s.reportLast cfg.reportInterval

/-- The unconditional writes of SETCOLOR: `auto <- 0` and the targets (R133). -/
def manualColor (t : Rgb Byte) (s : Regs) : Regs := setTargets t { s with auto := false }

/-- SETCOLOR `red, green, blue` (R133). The throttle governs the event and `report_last` only (R224). -/
def execSetColor (red green blue : Half) (s : State) : Result :=
  .next (
    if reportDue s.cfg s.now s.regs then
      s.complete { manualColor (clampColor red green blue) s.regs with reportLast := s.now }
        (emitColor (clampColor red green blue))
    else s.complete (manualColor (clampColor red green blue) s.regs) .quiet)

/-- CONNECT (R135): only the first one after reset acts. -/
def execConnect (s : State) : Result :=
  .next (
    if s.regs.connected then s.complete s.regs .quiet
    else s.complete { setPowerAction true s.regs with connected := true } (emitState true))

end Sys2Proof.Machine
end

