-- ==== Sys2Proof/Machine/Dispatch.lean ====
section
/-! DEFINITION. The dispatch of spec/45_control_loop.md R182: one arm per operation. -/

namespace Sys2Proof.Machine

def exec (i : Instr) (s : State) : Host.Outcome State Fault Refusal :=
  match i with
  | .poll => Sys2Proof.Machine.execPoll s
  | .setPower v => Sys2Proof.Machine.execSetPower v s
  | .setColor red green blue => Sys2Proof.Machine.execSetColor red green blue s
  | .setBright value => Sys2Proof.Machine.execSetBright value s
  | .connect => Sys2Proof.Machine.execConnect s

end Sys2Proof.Machine
end

