-- ==== Sys2Proof/Machine/Edge.lean ====
section
/-! DEFINITION. One rising edge of `clk` (spec/45_control_loop.md R182, R184, R187, spec/70_reset_and_hazards.md R240). -/

namespace Sys2Proof.Machine

/-- The word presented at an edge: decoded and executed with `now` sampled, or rejected without sampling it (R182, R200). -/
def runWord (w : Word) (t : Nat) (s : State) : Result :=
  match decode w with
  | .op i => exec i (s.sample t)
  | .reject why => .next (s.reject why)

/-- One edge with the input ports at `c`: reset wins, whatever `cmd_valid` shows (R240); no valid word is an idle cycle
(R184); otherwise the word is run. -/
def clockEdge (c : HostCycle) (s : State) : Result :=
  if c.rst then .next s.applyReset
  else if c.cmdValid then runWord c.cmdWord c.now s
  else .next s.idle

/-- One edge of the machine: the host's next port cycle is presented; a host that presents nothing leaves `cmd_valid` at
0, which is an idle cycle (R184). -/
def nextEdge (s : State) : Result :=
  match s.host with
  | [] => .next s.idle
  | c :: rest => clockEdge c { s with host := rest }

/-- The port cycle that presents the word `w` at the time last sampled. -/
def wordCycle (s : State) (nbits w : Nat) : HostCycle :=
  { rst := false, cmdValid := true, cmdWord := BitVec.ofNat 64 (w % 2 ^ nbits), now := s.now }

end Sys2Proof.Machine
end

