-- ==== Sys2Proof/Machine/Step.lean ====
section
/-! DEFINITION. The step (one `clk` cycle, spec/45_control_loop.md R187) and where the host's next command word stands. -/

namespace Sys2Proof.Machine

/-- One step: one rising edge of `clk`. Every state has one (R6, R182, R186). -/
def step (s : State) : Host.Outcome State Fault Refusal := nextEdge s

/-- `s` with the word `w` presented at the very next edge. The block fetches nothing: words arrive on the command port, so
a program is what the host presents (R57, R91, notes/assumptions/2.md). -/
def State.withFetchWord (s : State) (nbits w : Nat) : State := { s with host := wordCycle s nbits w :: s.host }

end Sys2Proof.Machine
end

