-- ==== Sys2Proof/Machine/Ports.lean ====
section
/-! DEFINITION. The output ports (spec/30_encoding.md R84) as a view of State, and the port cycle of a trace line (R91). -/

namespace Sys2Proof.Machine

/-- `cmd_status` (R84, R201). -/
def portStatus (s : State) : BitVec 2 := statusCode s.status

/-- `evt_state_valid` with `evt_state_on`: a payload is present exactly when the strobe is (R84, R211). -/
def portEvtState (s : State) : Option Bool := s.events.state

/-- `evt_color_valid` with `evt_color = (r, g, b)` packed, red in bits 23:16 (R84, R212). -/
def portEvtColor (s : State) : Option (BitVec 24) := s.events.color.map packColor

/-- `evt_bright_valid` with `evt_bright` (R84, R213). -/
def portEvtBright (s : State) : Option Half := s.events.bright

/-- `duty_r`, `duty_g`, `duty_b`: the output registers, always visible, `PWM_BITS` bits each (R31, R84). -/
def portDuty (s : State) : Rgb (BitVec s.cfg.pwmBits) := s.regs.out.map (BitVec.ofNat s.cfg.pwmBits)

/-- The port cycle of a trace line `@<t> <operation>`; `none` where the line is not legal (R90, R91). -/
def traceCycle (cfg : Config) (l : TraceLine) : Option HostCycle :=
  if l.wf cfg then (assemble l.op).map fun w => { rst := false, cmdValid := true, cmdWord := w, now := l.time }
  else none

/-- `s` with a whole trace presented next, one step a line in order (R91); `none` where a line is not legal. -/
def State.withTrace (s : State) (prog : List TraceLine) : Option State :=
  (prog.mapM (traceCycle s.cfg)).map fun cs => { s with host := cs ++ s.host }

end Sys2Proof.Machine
end

