-- ==== Sys2Proof/Safety.lean ====
section
/-! DEFINITION. The words claims are stated in: the invariant of spec/10_state.md R32, runs and reachable states
(spec/45_control_loop.md R186), what the next edge does, and the host's clock duty (spec/70_reset_and_hazards.md R250). The
machine has no fault and no refusal to be safe from (R6); a safe run is one whose states meet `State.Inv`. -/

namespace Sys2Proof.Machine

/-- The invariant of the block's state under a configuration: I-a, I-b, I-c of R32, and the three stamps in `TW` bits
(R28, R29, R30). -/
structure Regs.Inv (cfg : Config) (s : Regs) : Prop where
  /-- I-a: Auto Mode Flag is true only while Power State is on. -/
  autoOnlyWhenOn : s.auto = true → s.power = true
  /-- I-b: the cursor always refers to a valid palette index. -/
  cursorInPalette : s.cursor < cfg.palLen
  /-- I-c: every output register is in `0..PWM_MAX`. -/
  outInRange : ∀ c, s.out.get c ≤ cfg.pwmMax
  rampLastInRange : s.rampLast < 2 ^ cfg.tw
  cycleLastInRange : s.cycleLast < 2 ^ cfg.tw
  reportLastInRange : s.reportLast < 2 ^ cfg.tw

/-- The invariant of the machine: a well-formed configuration (R9), the block's invariant, and the sampled time in `TW`
bits (R183). -/
structure State.Inv (s : State) : Prop where
  config : s.cfg.WF
  regs : s.regs.Inv s.cfg
  nowInRange : s.now < 2 ^ s.cfg.tw

/-- The state after `n` edges. -/
def after : Nat → State → Option State
  | 0, s => some s
  | n + 1, s =>
    match step s with
    | .next t => after n t
    | .fault _ => none
    | .refused _ => none

/-- A run under `cfg` (R186): the reset state with any host behaviour, followed by steps. -/
inductive Reachable (cfg : Config) : State → Prop where
  | start (host : List HostCycle) : Reachable cfg { State.resetFor cfg with host := host }
  | step {s t : State} : Reachable cfg s → step s = .next t → Reachable cfg t

/-- `s` with the word `w` presented at time `t` at the next edge. -/
def State.present (s : State) (w : Word) (t : Nat) : State :=
  { s with host := { rst := false, cmdValid := true, cmdWord := w, now := t } :: s.host }

/-- The next edge is a reset edge (R240). -/
def nextReset (s : State) : Bool :=
  match s.host with
  | [] => false
  | c :: _ => c.rst

/-- The operation the next edge executes; `none` at a reset edge, an idle cycle and a rejected word. -/
def nextOp (s : State) : Option Instr :=
  match s.host with
  | [] => none
  | c :: _ =>
    if !c.rst && c.cmdValid then
      match decode c.cmdWord with
      | .op i => some i
      | .reject _ => none
    else none

/-- The time presented at the next edge, as the `now` port carries it (R183). -/
def nextNow (s : State) : Nat :=
  match s.host with
  | [] => s.now
  | c :: _ => sampleTime s.cfg c.now

/-- The next edge is a POLL whose ramp timer fires (R113). -/
def nextRampFires (s : State) : Bool := nextOp s == some .poll && rampDue s.cfg (nextNow s) s.regs

/-- The next edge is a POLL in auto mode whose auto-cycle timer fires (R150, R180). -/
def nextCycleFires (s : State) : Bool :=
  nextOp s == some .poll && s.regs.auto && cycleDue s.cfg (nextNow s) s.regs

/-- How many of the next `n` edges satisfy `p` in the state before them. -/
def countEdges (p : State → Bool) : Nat → State → Nat
  | 0, _ => 0
  | n + 1, s =>
    (if p s then 1 else 0) +
      match step s with
      | .next t => countEdges p n t
      | .fault _ => 0
      | .refused _ => 0

/-- Each of the next `n` edges satisfies `p` in the state before it. -/
def everyEdge (p : State → Prop) (n : Nat) (s : State) : Prop := ∀ k u, k < n → after k s = some u → p u

/-- The host keeps the clock duty of R250 from `s` on: edge `k` comes at true time `τ k`, true time never decreases, and
where edge `k` is a step (`rst = 0`, `cmd_valid = 1`) the port shows it modulo `2^TW`. R250 binds the values presented with
successive steps only, so what the port shows in an idle or a reset cycle is left free (notes/assumptions/13.md). -/
def ClockDuty (τ : Nat → Nat) (s : State) : Prop :=
  (∀ i j, i ≤ j → τ i ≤ τ j) ∧
    ∀ k c, s.host[k]? = some c → c.rst = false → c.cmdValid = true → c.now = τ k % 2 ^ s.cfg.tw

/-- `|a - b|` of two channel values. -/
def byteDist (a b : Byte) : Nat := (a.toNat - b.toNat) + (b.toNat - a.toNat)

/-- The bits that must be zero in a word with opcode `op`, for an assigned opcode (R73). -/
def mustBeZero (op : Nat) : Word :=
  match op with
  | 0 => 0x00FFFFFFFFFFFFFF
  | 1 => 0x00FFFFFEFFFFFFFF
  | 2 => 0x00FF000000000000
  | 3 => 0x00FF0000FFFFFFFF
  | _ => 0x00FFFFFFFFFFFFFF

/-- The opcode field of a word as a number (R72). -/
def opcodeOf (w : Word) : Nat := w.toNat / 2 ^ 56

end Sys2Proof.Machine
end

