-- ==== Sys2Proof/Certificates/Slice0/Obligations.lean ====
section
/-! DEFINITION. The statements for the provers. Each docstring names the rule it formalises; where a rule marks a point
as the spec's own decision (D<n> of spec/92_eei_decisions.md) or as derived, the docstring says so. -/

open Sys2Proof Sys2Proof.Machine

/-! ### Encoding -/

/-- Decode and encode agree, with every operand at every value (the bit layout is decision D10). -/
def Obligations.DecodeOfEncodeIsIdentity : Prop := ∀ i : Instr, decode (encode i) = .op i

/-- A word that decodes to an operation is that operation's word: no two words mean the same thing, so no bit of an
accepted word is ignored (D10, D13). -/
def Obligations.AcceptedWordIsItsEncoding : Prop := ∀ (w : Word) (i : Instr), decode w = .op i → encode i = w

/-- The match, the mask and the operand bits of each row of the opcode table, the encoding formulas as sums of fields,
and the rejection of a SETPOWER word with a bit of `A[15:1]` set (decisions D10, D12, D20). -/
def Obligations.RowsByMatchAndMask : Prop :=
  (∀ w : Word,
    (decode w = .op .poll ↔ w &&& 0xFFFFFFFFFFFFFFFF = 0x0000000000000000) ∧
    (∀ v : Bool, decode w = .op (.setPower v) ↔
      w &&& 0xFFFFFFFEFFFFFFFF = 0x0100000000000000 ∧ w.getLsbD 32 = v) ∧
    (∀ r g b : Half, decode w = .op (.setColor r g b) ↔
      w &&& 0xFFFF000000000000 = 0x0200000000000000 ∧
      w.extractLsb' 32 16 = r ∧ w.extractLsb' 16 16 = g ∧ w.extractLsb' 0 16 = b) ∧
    (∀ x : Half, decode w = .op (.setBright x) ↔
      w &&& 0xFFFF0000FFFFFFFF = 0x0300000000000000 ∧ w.extractLsb' 32 16 = x) ∧
    (decode w = .op .connect ↔ w &&& 0xFFFFFFFFFFFFFFFF = 0x0400000000000000) ∧
    (opcodeOf w = 1 → w.extractLsb' 33 15 ≠ 0 → decode w = .reject .reservedNonzero)) ∧
  (encode .poll).toNat = 0 ∧
  (∀ v : Bool, (encode (.setPower v)).toNat = 1 * 2 ^ 56 + v.toNat * 2 ^ 32) ∧
  (∀ r g b : Half, (encode (.setColor r g b)).toNat =
    2 * 2 ^ 56 + r.toNat * 2 ^ 32 + g.toNat * 2 ^ 16 + b.toNat) ∧
  (∀ x : Half, (encode (.setBright x)).toNat = 3 * 2 ^ 56 + x.toNat * 2 ^ 32) ∧
  (encode .connect).toNat = 4 * 2 ^ 56

/-- The decode procedure, case by case over the fields of the word read as numbers, total on all 2^64 words; the
opcode is checked before the must-be-zero bits (decision D13). -/
def Obligations.DecodeProcedureCaseByCase : Prop :=
  ∀ w : Word,
    let op := w.toNat / 2 ^ 56
    let res := w.toNat / 2 ^ 48 % 2 ^ 8
    let A := w.toNat / 2 ^ 32 % 2 ^ 16
    let B := w.toNat / 2 ^ 16 % 2 ^ 16
    let C := w.toNat % 2 ^ 16
    (4 < op → decode w = .reject .illegalOpcode) ∧
    (op ≤ 4 → res ≠ 0 → decode w = .reject .reservedNonzero) ∧
    (op = 0 → res = 0 →
      decode w = if A = 0 ∧ B = 0 ∧ C = 0 then .op .poll else .reject .reservedNonzero) ∧
    (op = 1 → res = 0 →
      decode w = if A / 2 = 0 ∧ B = 0 ∧ C = 0 then .op (.setPower (decide (A % 2 = 1)))
        else .reject .reservedNonzero) ∧
    (op = 2 → res = 0 →
      decode w = .op (.setColor (BitVec.ofNat 16 A) (BitVec.ofNat 16 B) (BitVec.ofNat 16 C))) ∧
    (op = 3 → res = 0 →
      decode w = if B = 0 ∧ C = 0 then .op (.setBright (BitVec.ofNat 16 A)) else .reject .reservedNonzero) ∧
    (op = 4 → res = 0 →
      decode w = if A = 0 ∧ B = 0 ∧ C = 0 then .op .connect else .reject .reservedNonzero)

/-- A few words of every family, written out from the encodings, and a few rejected ones (sanity). -/
def Obligations.SampleWordsDecode : Prop :=
  decode 0x0000000000000000 = .op .poll ∧
  decode 0x0100000100000000 = .op (.setPower true) ∧
  decode 0x0100000000000000 = .op (.setPower false) ∧
  decode 0x0200000A0014001E = .op (.setColor 10 20 30) ∧
  decode 0x0200FFFFFFFFFFFF = .op (.setColor 65535 65535 65535) ∧
  decode 0x0300008000000000 = .op (.setBright 128) ∧
  decode 0x0400000000000000 = .op .connect ∧
  decode 0xFF01000000000000 = .reject .illegalOpcode ∧
  decode 0x0100000300000000 = .reject .reservedNonzero

/-- The assembler takes exactly the lines whose operands are in range and gives the words of the encoding formulas; it
never clamps; `ON` is 1 and `OFF` is 0; a trace line is a port cycle at its time (the syntax is decisions D10, D22). -/
def Obligations.AssemblerRefusesOutOfRange : Prop :=
  (∀ v : Nat, assemble (.setPower (.num v)) =
    if v ≤ 1 then some (BitVec.ofNat 64 (2 ^ 56 + v * 2 ^ 32)) else none) ∧
  assemble (.setPower .on) = assemble (.setPower (.num 1)) ∧
  assemble (.setPower .off) = assemble (.setPower (.num 0)) ∧
  (∀ r g b : Nat, assemble (.setColor r g b) =
    if r ≤ 65535 ∧ g ≤ 65535 ∧ b ≤ 65535 then
      some (BitVec.ofNat 64 (2 * 2 ^ 56 + r * 2 ^ 32 + g * 2 ^ 16 + b)) else none) ∧
  (∀ x : Nat, assemble (.setBright x) =
    if x ≤ 65535 then some (BitVec.ofNat 64 (3 * 2 ^ 56 + x * 2 ^ 32)) else none) ∧
  assemble .poll = some 0 ∧
  assemble .connect = some (BitVec.ofNat 64 (4 * 2 ^ 56)) ∧
  (∀ (cfg : Config) (t : Nat) (a : AsmOp) (c : HostCycle), traceCycle cfg ⟨t, a⟩ = some c ↔
    t < 2 ^ cfg.tw ∧ c.rst = false ∧ c.cmdValid = true ∧ c.now = t ∧ assemble a = some c.cmdWord)

/-- A numeric operand is saturated to 0..255, not truncated, in SETCOLOR and SETBRIGHT alike; SETPOWER's operand is used
as it stands; a host that saturates a larger number to 65535 first changes nothing (decision D12). -/
def Obligations.OperandsSaturate : Prop :=
  (∀ x : Half, (clamp8 x).toNat = min x.toNat 255) ∧
  clamp8 256 = 255 ∧ clamp8 0x012C = 255 ∧
  (∀ n : Nat, (clamp8 (BitVec.ofNat 16 (min n 65535))).toNat = min n 255) ∧
  (∀ (r g b : Half) (s t : State), exec (.setColor r g b) s = .next t →
    t.regs.tgt.r.toNat = min r.toNat 255 ∧ t.regs.tgt.g.toNat = min g.toNat 255 ∧
    t.regs.tgt.b.toNat = min b.toNat 255) ∧
  (∀ (x : Half) (s t : State), exec (.setBright x) s = .next t → t.regs.bright.toNat = min x.toNat 255) ∧
  (∀ (v : Bool) (s t : State), exec (.setPower v) s = .next t → t.regs.power = v)

/-! ### The step function -/

/-- R182, R200. The step is total and has exactly one result; a decoded word runs its operation at the state with the
port cycle taken and `now` sampled; a rejected word gives the state back with its code and no event. -/
def Obligations.StepRunsDecodedOperation : Prop :=
  (∀ s : State, ∃! t : State, step s = .next t) ∧
  ∀ (s : State) (w : Word) (now : Nat),
    (∀ i : Instr, decode w = .op i →
      step (s.present w now) = exec i { s with now := now % 2 ^ s.cfg.tw }) ∧
    (∀ why : Reject, decode w = .reject why →
      step (s.present w now) =
        .next { s with status := (match why with
                                  | .illegalOpcode => .illegalOpcode
                                  | .reservedNonzero => .reservedNonzero),
                       events := ⟨none, none, none⟩ })

/-- A rejected word returns the state unchanged, in every element, with a non-zero status and no event, in exactly
two cases: an opcode above 0x04, or an assigned opcode with a must-be-zero bit set. It runs no timer and does not sample
`now`. Every other word ends with status OK (which words are rejected: decision D13). -/
def Obligations.RejectedWordChangesNothing : Prop :=
  ∀ (s : State) (w : Word) (now : Nat),
    (4 < opcodeOf w → step (s.present w now) =
      .next { s with status := .illegalOpcode, events := ⟨none, none, none⟩ }) ∧
    (opcodeOf w ≤ 4 → w &&& mustBeZero (opcodeOf w) ≠ 0 → step (s.present w now) =
      .next { s with status := .reservedNonzero, events := ⟨none, none, none⟩ }) ∧
    (opcodeOf w ≤ 4 → w &&& mustBeZero (opcodeOf w) = 0 →
      ∃ t, step (s.present w now) = .next t ∧ t.status = .ok)

/-- The status codes and when each is reported; code 3 is never produced; no operation fails once decoded; a rejection
and an event never coincide (decision D13). -/
def Obligations.StatusCodesReported : Prop :=
  statusCode .ok = 0 ∧ statusCode .illegalOpcode = 1 ∧ statusCode .reservedNonzero = 2 ∧
  (∀ st : Status, statusCode st ≠ 3) ∧
  (∀ (i : Instr) (s : State), ∃ t, exec i s = .next t ∧ t.status = .ok) ∧
  ∀ (s : State) (w : Word) (now : Nat) (t : State), step (s.present w now) = .next t →
    (portStatus t = 1 ↔ 4 < opcodeOf w) ∧
    (portStatus t = 2 ↔ opcodeOf w ≤ 4 ∧ w &&& mustBeZero (opcodeOf w) ≠ 0) ∧
    (portStatus t ≠ 0 → t.events = ⟨none, none, none⟩)

/-- R202. What is not a rejection: an operand above 255, a throttled color event, a second CONNECT, a POLL that fires
nothing. Each ends with status OK; the first two have changed state. -/
def Obligations.AcceptedThoughNothingToReport : Prop :=
  (∀ (s : State) (r g b : Half), ∃ t, exec (.setColor r g b) s = .next t ∧ t.status = .ok ∧
    t.regs.tgt.r.toNat = min r.toNat 255 ∧ t.regs.tgt.g.toNat = min g.toNat 255 ∧
    t.regs.tgt.b.toNat = min b.toNat 255) ∧
  (∀ (s : State) (x : Half), ∃ t, exec (.setBright x) s = .next t ∧ t.status = .ok ∧
    t.regs.bright.toNat = min x.toNat 255) ∧
  (∀ (s : State) (r g b : Half), reportDue s.cfg s.now s.regs = false →
    ∃ t, exec (.setColor r g b) s = .next t ∧ t.status = .ok ∧ t.events.color = none ∧
      t.regs.tgt = ⟨clamp8 r, clamp8 g, clamp8 b⟩ ∧ t.regs.auto = false) ∧
  (∀ s : State, s.regs.connected = true → ∃ t, exec .connect s = .next t ∧ t.status = .ok) ∧
  (∀ s : State, rampDue s.cfg s.now s.regs = false → cycleDue s.cfg s.now s.regs = false →
    ∃ t, exec .poll s = .next t ∧ t.status = .ok)

/-- A cycle with `cmd_valid = 0`, or a host that presents nothing, is no step: no state changes, status 0, no event
(decision D22; that an exhausted host list is such a cycle is the model's choice, notes/assumptions/2.md). -/
def Obligations.IdleCycleChangesNothing : Prop :=
  ∀ (s : State) (w : Word) (t : Nat),
    step { s with host := ⟨false, false, w, t⟩ :: s.host } =
      .next { s with status := .ok, events := ⟨none, none, none⟩ } ∧
    step { s with host := [] } = .next { s with host := [], status := .ok, events := ⟨none, none, none⟩ }

/-! ### The operations -/

/-- R132. SETPOWER: the flags, the event on every call, no other element touched, `now` not read, its two words, its
rejections, and re-sending it changes nothing more. -/
def Obligations.SetPowerResult : Prop :=
  (∀ (s : State) (v : Bool), exec (.setPower v) s =
    .next { s with
      regs := { s.regs with power := v, auto := if v = s.regs.power then s.regs.auto else v }
      status := .ok
      events := ⟨some v, none, none⟩ }) ∧
  (∀ (s : State) (v : Bool) (now : Nat),
    step (s.present (if v then 0x0100000100000000 else 0x0100000000000000) now) =
      exec (.setPower v) { s with now := now % 2 ^ s.cfg.tw }) ∧
  (∀ (s : State) (w : Word) (now : Nat), opcodeOf w = 1 → w &&& 0x00FFFFFEFFFFFFFF ≠ 0 →
    step (s.present w now) = .next { s with status := .reservedNonzero, events := ⟨none, none, none⟩ }) ∧
  (∀ (s t u : State) (v : Bool), exec (.setPower v) s = .next t → exec (.setPower v) t = .next u → u = t)

/-- SETCOLOR: `auto` cleared and the clamped targets stored on every call; the event and `report_last` exactly when
the report interval has elapsed, over the integers modulo `2^TW`; nothing else touched; its rejections. That a
throttled event is dropped is decision D18, the elapsed test decision D2. -/
def Obligations.SetColorResult : Prop :=
  (∀ (s : State) (r g b : Half),
    (∀ T : Rgb Byte, T = ⟨BitVec.ofNat 8 (min r.toNat 255), BitVec.ofNat 8 (min g.toNat 255),
        BitVec.ofNat 8 (min b.toNat 255)⟩ →
      ((s.cfg.reportInterval : Int) ≤ ((s.now : Int) - s.regs.reportLast) % 2 ^ s.cfg.tw →
        exec (.setColor r g b) s = .next { s with
          regs := { s.regs with auto := false, tgt := T, reportLast := s.now }
          status := .ok
          events := ⟨none, some T, none⟩ }) ∧
      (((s.now : Int) - s.regs.reportLast) % 2 ^ s.cfg.tw < s.cfg.reportInterval →
        exec (.setColor r g b) s = .next { s with
          regs := { s.regs with auto := false, tgt := T }
          status := .ok
          events := ⟨none, none, none⟩ }))) ∧
  (∀ (s : State) (w : Word) (now : Nat), opcodeOf w = 2 → w &&& 0x00FF000000000000 ≠ 0 →
    step (s.present w now) = .next { s with status := .reservedNonzero, events := ⟨none, none, none⟩ })

/-- R114. SETBRIGHT: the clamped value stored at once, the operand as received echoed every time, nothing else touched,
its word, its rejections; with value 0 the next firing `RampTick` darkens the outputs while `power` stays as it was, and
with 128, under CFG_REF and at full white, it writes 513 three times. -/
def Obligations.SetBrightResult : Prop :=
  (∀ (s : State) (x : Half), exec (.setBright x) s =
    .next { s with
      regs := { s.regs with bright := BitVec.ofNat 8 (min x.toNat 255) }
      status := .ok
      events := ⟨none, none, some x⟩ }) ∧
  (∀ (s : State) (x : Half) (now : Nat),
    step (s.present (BitVec.ofNat 64 (3 * 2 ^ 56 + x.toNat * 2 ^ 32)) now) =
      exec (.setBright x) { s with now := now % 2 ^ s.cfg.tw }) ∧
  (∀ (s : State) (w : Word) (now : Nat), opcodeOf w = 3 → w &&& 0x00FF0000FFFFFFFF ≠ 0 →
    step (s.present w now) = .next { s with status := .reservedNonzero, events := ⟨none, none, none⟩ }) ∧
  (∀ (s t u : State) (now : Nat), exec (.setBright 0) s = .next t → rampDue t.cfg now t.regs = true →
    exec .poll { t with now := now } = .next u →
    u.regs.out = ⟨0, 0, 0⟩ ∧ u.regs.power = s.regs.power) ∧
  (∀ (s t u : State) (now : Nat), s.cfg = Config.ref → s.regs.power = true → s.regs.auto = false →
    s.regs.cur = ⟨255, 255, 255⟩ → s.regs.tgt = ⟨255, 255, 255⟩ → exec (.setBright 128) s = .next t →
    rampDue t.cfg now t.regs = true → exec .poll { t with now := now } = .next u → u.regs.out = ⟨513, 513, 513⟩)

/-- CONNECT: the first one after reset forces power on through the same action as a power command, sets the guard and
emits EV_STATE(1); every later one is a successful no-op with no event; its rejections leave the guard clear (the
place of the guard and how power is forced on are decision D20). -/
def Obligations.ConnectResult : Prop :=
  (∀ s : State, s.regs.connected = false → exec .connect s =
    .next { s with
      regs := { s.regs with connected := true, power := true,
                            auto := if s.regs.power = true then s.regs.auto else true }
      status := .ok
      events := ⟨some true, none, none⟩ }) ∧
  (∀ s : State, s.regs.connected = true → exec .connect s =
    .next { s with status := .ok, events := ⟨none, none, none⟩ }) ∧
  (∀ (s : State) (w : Word) (now : Nat), opcodeOf w = 4 → w &&& 0x00FFFFFFFFFFFFFF ≠ 0 →
    step (s.present w now) = .next { s with status := .reservedNonzero, events := ⟨none, none, none⟩ })

/-- R180. POLL: `CycleTick` when `auto = 1`, then `RampTick`, status OK, no event; when neither fires, nothing is
written; flags, brightness, guard and `report_last` never are; both can fire, and then the ramp step already moves
toward the palette entry; with the light off the ramp still runs and the outputs are 0; its word and its rejections;
and the first two POLLs after reset under CFG_REF, at times 0 and 500. -/
def Obligations.PollResult : Prop :=
  (∀ s : State, exec .poll s =
    .next { s with
      regs := rampTick s.cfg s.now (if s.regs.auto = true then cycleTick s.cfg s.now s.regs else s.regs)
      status := .ok
      events := ⟨none, none, none⟩ }) ∧
  (∀ s : State, (s.regs.auto = true → cycleDue s.cfg s.now s.regs = false) →
    rampDue s.cfg s.now s.regs = false →
    exec .poll s = .next { s with status := .ok, events := ⟨none, none, none⟩ }) ∧
  (∀ s t : State, exec .poll s = .next t →
    t.regs.power = s.regs.power ∧ t.regs.auto = s.regs.auto ∧ t.regs.bright = s.regs.bright ∧
    t.regs.connected = s.regs.connected ∧ t.regs.reportLast = s.regs.reportLast) ∧
  (∀ (s t : State) (e : Rgb Byte), s.regs.auto = true → s.cfg.palette[s.regs.cursor]? = some e →
    cycleDue s.cfg s.now s.regs = true → rampDue s.cfg s.now s.regs = true → exec .poll s = .next t →
    t.regs.tgt = e ∧ ∀ c, t.regs.cur.get c = step1 (s.regs.cur.get c) (e.get c)) ∧
  (∀ s t : State, s.regs.power = false → s.regs.auto = false → rampDue s.cfg s.now s.regs = true →
    exec .poll s = .next t →
    t.regs.out = ⟨0, 0, 0⟩ ∧ ∀ c, t.regs.cur.get c = step1 (s.regs.cur.get c) (s.regs.tgt.get c)) ∧
  (∀ (s : State) (now : Nat), step (s.present 0 now) = exec .poll { s with now := now % 2 ^ s.cfg.tw }) ∧
  (∀ (s : State) (w : Word) (now : Nat), opcodeOf w = 0 → w &&& 0x00FFFFFFFFFFFFFF ≠ 0 →
    step (s.present w now) = .next { s with status := .reservedNonzero, events := ⟨none, none, none⟩ }) ∧
  (∃ t u : State, exec .poll { State.resetFor Config.ref with now := 0 } = .next t ∧
    t.regs = { Regs.reset Config.ref with tgt := ⟨255, 0, 0⟩, cursor := 1, cycleLast := 0 } ∧
    exec .poll { t with now := 500 } = .next u ∧ u.regs = { t.regs with cur := ⟨1, 0, 0⟩, rampLast := 500 })

/-! ### The Ramp Engine and the Output Driver -/

/-- The saturating unit step: one up, one down or none, as numbers, so with no wrap at 0 or 255; never past the target
(that it cannot wrap or overshoot is the spec's own derivation). -/
def Obligations.UnitStepNeverOvershoots : Prop :=
  ∀ cur tgt : Byte,
    (cur.toNat < tgt.toNat → (step1 cur tgt).toNat = cur.toNat + 1) ∧
    (tgt.toNat < cur.toNat → (step1 cur tgt).toNat + 1 = cur.toNat) ∧
    (cur = tgt → step1 cur tgt = cur) ∧
    byteDist (step1 cur tgt) tgt = byteDist cur tgt - 1 ∧
    byteDist (step1 cur tgt) cur ≤ 1

/-- `RampTick(now)`: when at least the ramp interval has elapsed, over the integers modulo `2^TW`, the stamp is `now`,
each channel takes one step, and each output is recomputed from the NEW current value; otherwise nothing is written
(storing `now` itself is decision D2, the floor and the divisor 255 decision D9). -/
def Obligations.RampTickResult : Prop :=
  ∀ (cfg : Config) (now : Nat) (s : Regs),
    ((cfg.rampInterval : Int) ≤ ((now : Int) - s.rampLast) % 2 ^ cfg.tw →
      ∃ t, rampTick cfg now s = t ∧
        t = { s with rampLast := now, cur := t.cur, out := t.out } ∧
        ∀ c, t.cur.get c = step1 (s.cur.get c) (s.tgt.get c) ∧
          t.out.get c = (if s.power = true then s.bright.toNat * cfg.gamma[(t.cur.get c).toNat] / 255 else 0)) ∧
    (((now : Int) - s.rampLast) % 2 ^ cfg.tw < cfg.rampInterval → rampTick cfg now s = s)

/-- R116. The three lanes are stepped in the same firing, each against its own target; no lane reads another's value;
they fire together or not at all; and they may arrive at different times. -/
def Obligations.LanesStepIndependently : Prop :=
  (∀ (cfg : Config) (now : Nat) (s s' : Regs) (c : Channel),
    s.rampLast = s'.rampLast → s.cur.get c = s'.cur.get c → s.tgt.get c = s'.tgt.get c →
    (rampTick cfg now s).cur.get c = (rampTick cfg now s').cur.get c) ∧
  (∀ (cfg : Config) (now : Nat) (s : Regs),
    (∀ c, (rampTick cfg now s).cur.get c = step1 (s.cur.get c) (s.tgt.get c)) ∨
    (∀ c, (rampTick cfg now s).cur.get c = s.cur.get c)) ∧
  (∃ (cfg : Config) (now : Nat) (s : Regs), cfg.WF ∧ s.cur.r ≠ s.tgt.r ∧ s.cur.g ≠ s.tgt.g ∧
    (rampTick cfg now s).cur.r = s.tgt.r ∧ (rampTick cfg now s).cur.g ≠ s.tgt.g)

/-- The ramp is not gated by `power` or `auto`: for any values of the two flags the stamp and the current values after a
tick are the same; with the light off a firing tick writes zeros (the spec's own derivation from its ramp and output
rules). -/
def Obligations.RampRunsWhileOff : Prop :=
  ∀ (cfg : Config) (now : Nat) (s : Regs) (p a : Bool),
    (rampTick cfg now { s with power := p, auto := a }).cur = (rampTick cfg now s).cur ∧
    (rampTick cfg now { s with power := p, auto := a }).rampLast = (rampTick cfg now s).rampLast ∧
    (rampDue cfg now s = true → (rampTick cfg now { s with power := false, auto := a }).out = ⟨0, 0, 0⟩)

/-- R110, R118. `setTargets` stores the three targets together and touches nothing else, so a ramp in progress is
redirected by a new color without a jump: SETCOLOR and a firing `CycleTick` leave the current values, and the next
firing steps from where the ramp stood toward the new target. -/
def Obligations.RedirectionIsContinuous : Prop :=
  (∀ (t : Rgb Byte) (s : Regs), setTargets t s = { s with tgt := t }) ∧
  (∀ (cfg : Config) (now : Nat) (s : Regs), (cycleTick cfg now s).cur = s.cur) ∧
  (∀ (s t : State) (r g b : Half) (now : Nat), exec (.setColor r g b) s = .next t →
    t.regs.cur = s.regs.cur ∧ t.regs.tgt = clampColor r g b ∧
    (rampDue t.cfg now t.regs = true → ∀ c, (rampTick t.cfg now t.regs).cur.get c =
      step1 (s.regs.cur.get c) ((clampColor r g b).get c)))

/-- The output level is `power ? (bright * duty) / 255 : 0`, written to the three outputs together, a pure function
of the current values, brightness and power: nothing else of the state matters and nothing else is written. Its corner
cases, and the product's exact range, are also stated (divisor and floor: decision D9). -/
def Obligations.OutputLevelContract : Prop :=
  (∀ (cfg : Config) (s : Regs), ∃ o : Rgb Nat, outputDriver cfg s = { s with out := o } ∧
    ∀ c, o.get c =
      if s.power = true then s.bright.toNat * (currentDutyCycles cfg s).get c / 255 else 0) ∧
  (∀ (cfg : Config) (s s' : Regs), s.cur = s'.cur → s.bright = s'.bright → s.power = s'.power →
    (outputDriver cfg s).out = (outputDriver cfg s').out) ∧
  (∀ (cfg : Config) (s : Regs) (x : Byte),
    (s.power = false → outputLevel cfg s x = 0) ∧
    (s.bright = 0 → outputLevel cfg s x = 0) ∧
    (s.power = true → s.bright = 255 → outputLevel cfg s x = gammaLookup cfg x) ∧
    (s.power = true → s.bright = 1 → outputLevel cfg s x = gammaLookup cfg x / 255) ∧
    (cfg.WF → s.bright.toNat * gammaLookup cfg x ≤ 255 * cfg.pwmMax ∧
      s.bright.toNat * gammaLookup cfg x < 2 ^ (8 + cfg.pwmBits)))

/-- In every well-formed configuration an output level is at most the duty, hence at most `PWM_MAX`; it is monotone in
the channel value, and in the brightness (the spec's own derivation). -/
def Obligations.OutputLevelInRangeAndMonotone : Prop :=
  ∀ cfg : Config, cfg.WF → ∀ (s : Regs) (x y : Byte),
    outputLevel cfg s x ≤ gammaLookup cfg x ∧ gammaLookup cfg x ≤ cfg.pwmMax ∧
    gammaLookup cfg x < 2 ^ cfg.pwmBits ∧
    (x.toNat ≤ y.toNat → outputLevel cfg s x ≤ outputLevel cfg s y) ∧
    (∀ b : Byte, s.bright.toNat ≤ b.toNat → outputLevel cfg s x ≤ outputLevel cfg { s with bright := b } x)

/-- R100, R101, R102. `GammaLookup(x)` is entry `x` of the one table; in every well-formed configuration it is
monotone over all inputs and bounded; it need not be strictly increasing; `currentDutyCycles` is the three current
values through it, whatever brightness and power are, and writes nothing. -/
def Obligations.GammaLookupContract : Prop :=
  (∀ (cfg : Config) (x : Byte), gammaLookup cfg x = cfg.gamma[x.toNat]) ∧
  (∀ cfg : Config, cfg.WF → ∀ x y : Byte, x.toNat ≤ y.toNat →
    gammaLookup cfg x ≤ gammaLookup cfg y ∧ gammaLookup cfg y ≤ cfg.pwmMax) ∧
  (∀ x : Byte, x.toNat ≤ 7 → gammaLookup Config.ref x = 0) ∧
  gammaLookup Config.ref 128 = 257 ∧
  (∀ (cfg : Config) (s : Regs),
    currentDutyCycles cfg s = ⟨gammaLookup cfg s.cur.r, gammaLookup cfg s.cur.g, gammaLookup cfg s.cur.b⟩) ∧
  (∀ s : Regs, s.cur = ⟨255, 128, 0⟩ → currentDutyCycles Config.ref s = ⟨1023, 257, 0⟩)

/-- The Output Driver runs at every firing `RampTick`, after the new current values, and at no other time: at an edge
that is no reset edge, the outputs are the levels of the new current values when the edge is a POLL whose ramp timer
fires, and unchanged at every other edge (decisions D15, D16). -/
def Obligations.OutputsWrittenOnlyByFiringRamp : Prop :=
  ∀ s t : State, step s = .next t → nextReset s = false →
    (nextRampFires s = true → ∀ c, t.regs.out.get c = outputLevel s.cfg s.regs (t.regs.cur.get c)) ∧
    (nextRampFires s = false → t.regs.out = s.regs.out)

/-- R255. After SETBRIGHT, SETPOWER or CONNECT the outputs keep their values until the next POLL whose ramp timer
fires: over any run without reset in which no such POLL comes, they do not change; the very next POLL may be the one
that fires, and after SETPOWER 0 it darkens the light. -/
def Obligations.OutputsLagUntilNextFiring : Prop :=
  (∀ (n : Nat) (s t : State), after n s = some t → everyEdge (fun u => nextReset u = false) n s →
    countEdges nextRampFires n s = 0 → t.regs.out = s.regs.out) ∧
  (∀ (i : Instr) (s t : State), i ≠ .poll → exec i s = .next t → t.regs.out = s.regs.out) ∧
  (∀ (s t u : State) (now : Nat), exec (.setPower false) s = .next t →
    rampDue t.cfg (now % 2 ^ t.cfg.tw) t.regs = true → step (t.present 0 now) = .next u →
    u.regs.out = ⟨0, 0, 0⟩)

/-- A current value never jumps: over one edge that is no reset edge each channel moves by at most one unit, and only
in a POLL whose ramp timer fires, however long the timer has waited (no catch-up). -/
def Obligations.CurrentValuesMoveByOneUnit : Prop :=
  ∀ s t : State, step s = .next t → nextReset s = false →
    (nextRampFires s = false → t.regs.cur = s.regs.cur) ∧
    (nextRampFires s = true → ∀ c,
      t.regs.cur.get c = step1 (s.regs.cur.get c) (t.regs.tgt.get c) ∧
      byteDist (t.regs.cur.get c) (s.regs.cur.get c) ≤ 1)

/-- Convergence. Over any run without reset in which the targets are not changed, after `n` firings of the ramp timer
each channel's distance to its target is what it was less `n`, or 0; so after enough firings, at most 255, the current
values are the targets (the spec's own derivation from the unit step). -/
def Obligations.RampConverges : Prop :=
  ∀ (n : Nat) (s t : State), after n s = some t → everyEdge (fun u => nextReset u = false) n s →
    (∀ k u, k ≤ n → after k s = some u → u.regs.tgt = s.regs.tgt) →
    (∀ c, byteDist (t.regs.cur.get c) (s.regs.tgt.get c) =
      byteDist (s.regs.cur.get c) (s.regs.tgt.get c) - countEdges nextRampFires n s) ∧
    (255 ≤ countEdges nextRampFires n s → t.regs.cur = s.regs.tgt)

/-- The step rate is a maximum. If the host's clock is monotonic (bound at the edges that are steps, free in idle cycles),
then over any run of `n + 1` edges without reset a current value moves by at most one unit, plus one for each ramp interval
of true time between the first edge and the last, across any number of clock wraps. -/
def Obligations.RampRateBoundedInTrueTime : Prop :=
  ∀ (τ : Nat → Nat) (n : Nat) (s t : State), ClockDuty τ s → after (n + 1) s = some t →
    everyEdge (fun u => nextReset u = false) (n + 1) s →
    ∀ c, byteDist (t.regs.cur.get c) (s.regs.cur.get c) * s.cfg.rampInterval ≤ τ n - τ 0 + s.cfg.rampInterval

/-! ### The Auto-Cycle Timer -/

/-- `CycleTick(now)` with the cursor in the palette: when at least the cycle interval has elapsed, over the integers
modulo `2^TW`, the stamp is `now`, the targets are the entry AT the cursor, and the cursor advances with wrap;
otherwise nothing is written (decision D2). It is run only by a POLL in auto mode. -/
def Obligations.CycleTickResult : Prop :=
  (∀ (cfg : Config) (now : Nat) (s : Regs) (e : Rgb Byte), cfg.palette[s.cursor]? = some e →
    ((cfg.cycleInterval : Int) ≤ ((now : Int) - s.cycleLast) % 2 ^ cfg.tw →
      cycleTick cfg now s = { s with
        cycleLast := now
        cursor := if s.cursor + 1 = cfg.palette.length then 0 else s.cursor + 1
        tgt := e }) ∧
    (((now : Int) - s.cycleLast) % 2 ^ cfg.tw < cfg.cycleInterval → cycleTick cfg now s = s)) ∧
  (∀ s t : State, step s = .next t → nextReset s = false → t.regs.cycleLast ≠ s.regs.cycleLast →
    nextOp s = some .poll ∧ s.regs.auto = true)

/-- R151. The cursor advances by one and wraps to 0 after the last entry; with one entry it stays 0 and every firing
re-applies that entry; no edge but a reset sets it otherwise, so it always names an entry. -/
def Obligations.CursorAdvancesByOneAndWraps : Prop :=
  (∀ (cfg : Config) (k : Nat),
    (k + 1 < cfg.palLen → nextCursor cfg k = k + 1) ∧ (k + 1 = cfg.palLen → nextCursor cfg k = 0)) ∧
  (∀ (cfg : Config) (now : Nat) (s : Regs) (e : Rgb Byte), cfg.palette = [e] → s.cursor = 0 →
    (cycleTick cfg now s).cursor = 0 ∧ (cycleDue cfg now s = true → (cycleTick cfg now s).tgt = e)) ∧
  (∀ s t : State, step s = .next t → nextReset s = false →
    t.regs.cursor = s.regs.cursor ∨
      (nextCycleFires s = true ∧ t.regs.cursor = nextCursor s.cfg s.regs.cursor)) ∧
  (∀ s t : State, step s = .next t → s.regs.cursor < s.cfg.palLen → t.regs.cursor < t.cfg.palLen)

/-- R152. The timer itself does not read `auto`; POLL, its only caller, tests the flag: with `auto = 0` the timer
neither fires nor updates its stamp, and with `auto = 1` it is consulted at every POLL. -/
def Obligations.AutoTickGatedByPoll : Prop :=
  (∀ (cfg : Config) (now : Nat) (s : Regs) (a : Bool),
    cycleTick cfg now { s with auto := a } = { cycleTick cfg now s with auto := a }) ∧
  (∀ s t : State, s.regs.auto = false → exec .poll s = .next t →
    t.regs.cycleLast = s.regs.cycleLast ∧ t.regs.cursor = s.regs.cursor ∧ t.regs.tgt = s.regs.tgt) ∧
  (∀ s t : State, s.regs.auto = true → exec .poll s = .next t →
    t.regs.cycleLast = (cycleTick s.cfg s.now s.regs).cycleLast ∧
    t.regs.cursor = (cycleTick s.cfg s.now s.regs).cursor ∧ t.regs.tgt = (cycleTick s.cfg s.now s.regs).tgt) ∧
  (∀ s t : State, step s = .next t → nextReset s = false →
    (t.regs.cycleLast ≠ s.regs.cycleLast ∨ t.regs.cursor ≠ s.regs.cursor) →
    nextOp s = some .poll ∧ s.regs.auto = true)

/-- The palette is traversed in table order. Over any run without reset, from a state that meets the invariant, in
which every operation is a POLL and auto mode is on, after `m` firings of the auto-cycle timer the cursor has advanced
by `m` modulo the palette length, and, if `m > 0`, the targets are the entry before the cursor; so `PAL_LEN` firings
visit every entry once and come back (the spec's own derivation from its cycle rule). -/
def Obligations.PaletteTraversedInOrder : Prop :=
  ∀ (n : Nat) (s t : State), s.Inv → s.regs.auto = true → after n s = some t →
    everyEdge (fun u => nextReset u = false ∧ (nextOp u = none ∨ nextOp u = some .poll)) n s →
    t.regs.cursor = (s.regs.cursor + countEdges nextCycleFires n s) % s.cfg.palLen ∧
    (∀ m, countEdges nextCycleFires n s = m + 1 →
      s.cfg.palette[(s.regs.cursor + m) % s.cfg.palLen]? = some t.regs.tgt)

/-- While `auto = 0`, cursor and cycle stamp are frozen at every edge but a reset; entering auto mode does not touch
them, so the next POLL tests the OLD stamp and applies the entry the cursor was left at (decision D21). -/
def Obligations.PaletteResumesWhereItStopped : Prop :=
  (∀ (n : Nat) (s t : State), after n s = some t →
    everyEdge (fun u => nextReset u = false ∧ u.regs.auto = false) n s →
    t.regs.cursor = s.regs.cursor ∧ t.regs.cycleLast = s.regs.cycleLast) ∧
  (∀ (s t : State) (i : Instr), i ≠ .poll → exec i s = .next t →
    t.regs.cursor = s.regs.cursor ∧ t.regs.cycleLast = s.regs.cycleLast) ∧
  (∀ (s t u : State) (e : Rgb Byte) (now : Nat), s.regs.power = false → exec (.setPower true) s = .next t →
    s.cfg.palette[s.regs.cursor]? = some e → exec .poll { t with now := now } = .next u →
    ((s.cfg.cycleInterval : Int) ≤ ((now : Int) - s.regs.cycleLast) % 2 ^ s.cfg.tw → u.regs.tgt = e) ∧
    (((now : Int) - s.regs.cycleLast) % 2 ^ s.cfg.tw < s.cfg.cycleInterval → u.regs.tgt = s.regs.tgt))

/-- The first POLL after reset, at time `t0`, fires the auto-cycle timer exactly when `t0 < 2^TW - CYCLE_INTERVAL`, and
then applies entry 0; it fires the ramp timer exactly when `t0 >= RAMP_INTERVAL`; until a ramp firing the outputs are 0
(the reset stamps are decision D3). -/
def Obligations.FirstPollAfterReset : Prop :=
  ∀ (cfg : Config) (t0 : Nat) (e : Rgb Byte) (t : State), cfg.WF → t0 < 2 ^ cfg.tw → cfg.palette[0]? = some e →
    exec .poll { State.resetFor cfg with now := t0 } = .next t →
    (t0 < 2 ^ cfg.tw - cfg.cycleInterval → t.regs.tgt = e ∧ t.regs.cycleLast = t0 ∧
      t.regs.cursor = 1 % cfg.palette.length) ∧
    (2 ^ cfg.tw - cfg.cycleInterval ≤ t0 → t.regs.tgt = ⟨255, 255, 255⟩ ∧ t.regs.cursor = 0) ∧
    (cfg.rampInterval ≤ t0 → t.regs.rampLast = t0) ∧
    (t0 < cfg.rampInterval → t.regs.cur = cfg.initCur ∧ t.regs.out = ⟨0, 0, 0⟩)

/-! ### Flags and the Mode Arbiter -/

/-- R25, R26. Who writes the flags: at an edge that is no reset edge `power` changes only by a SETPOWER or the first
CONNECT, and `auto` only by a SETPOWER or first CONNECT that changes `power`, to the new power value, or by a
SETCOLOR, to 0. `power` gates the outputs; with `auto = 0` a POLL leaves the targets, and with `auto = 1` it takes
them from the auto-cycle timer; both are 1 after reset. -/
def Obligations.FlagWriters : Prop :=
  (∀ s t : State, step s = .next t → nextReset s = false → t.regs.power ≠ s.regs.power →
    (∃ v, nextOp s = some (.setPower v) ∧ t.regs.power = v) ∨
    (nextOp s = some .connect ∧ s.regs.connected = false ∧ t.regs.power = true)) ∧
  (∀ s t : State, step s = .next t → nextReset s = false → t.regs.auto ≠ s.regs.auto →
    (t.regs.power ≠ s.regs.power ∧ t.regs.auto = t.regs.power) ∨
    ((∃ r g b, nextOp s = some (.setColor r g b)) ∧ t.regs.auto = false)) ∧
  (∀ s t : State, step s = .next t → nextReset s = false →
    (t.regs.power ≠ s.regs.power → t.regs.auto = t.regs.power) ∧
    (∀ r g b, nextOp s = some (.setColor r g b) → t.regs.auto = false)) ∧
  (∀ (cfg : Config) (s : Regs), s.power = false → (outputDriver cfg s).out = ⟨0, 0, 0⟩) ∧
  (∀ s t : State, exec .poll s = .next t →
    t.regs.tgt = if s.regs.auto = true then (cycleTick s.cfg s.now s.regs).tgt else s.regs.tgt) ∧
  (∀ cfg : Config, (Regs.reset cfg).power = true ∧ (Regs.reset cfg).auto = true)

/-- One brightness register (divisor and floor of its product: decision D9): reset to 255, applied to all three duties
as a factor before the output, changed only by SETBRIGHT, and then at once to the clamped operand; read only by the
Output Driver: two states that differ in brightness alone differ after any operation at most in brightness and
outputs. -/
def Obligations.BrightnessReadOnlyByOutputs : Prop :=
  (∀ cfg : Config, (Regs.reset cfg).bright = 255) ∧
  (∀ (cfg : Config) (s : Regs), s.power = true → ∀ c,
    (outputDriver cfg s).out.get c = s.bright.toNat * (currentDutyCycles cfg s).get c / 255) ∧
  (∀ s t : State, step s = .next t → nextReset s = false → t.regs.bright ≠ s.regs.bright →
    ∃ x, nextOp s = some (.setBright x) ∧ t.regs.bright = clamp8 x) ∧
  (∀ (i : Instr) (s t u : State) (b : Byte), exec i s = .next t →
    exec i { s with regs := { s.regs with bright := b } } = .next u →
    u = { t with regs := { t.regs with bright := u.regs.bright, out := u.regs.out } } ∧
    (i ≠ .poll → u.regs.out = t.regs.out))

/-- The transition table of the arbiter, every reachable state against every operation (the spec derives it from its
operation rules). A POLL keeps the mode. -/
def Obligations.ArbiterTransitionTable : Prop :=
  ∀ s t : State,
    (modeAuto s.regs = true →
      (exec (.setPower true) s = .next t → modeAuto t.regs = true) ∧
      (exec (.setPower false) s = .next t → modeOff t.regs = true) ∧
      (∀ r g b, exec (.setColor r g b) s = .next t → modeManual t.regs = true) ∧
      (∀ x, exec (.setBright x) s = .next t → modeAuto t.regs = true) ∧
      (exec .connect s = .next t → modeAuto t.regs = true) ∧
      (exec .poll s = .next t → modeAuto t.regs = true)) ∧
    (modeManual s.regs = true →
      (exec (.setPower true) s = .next t → modeManual t.regs = true) ∧
      (exec (.setPower false) s = .next t → modeOff t.regs = true) ∧
      (∀ r g b, exec (.setColor r g b) s = .next t → modeManual t.regs = true) ∧
      (∀ x, exec (.setBright x) s = .next t → modeManual t.regs = true) ∧
      (exec .connect s = .next t → modeManual t.regs = true) ∧
      (exec .poll s = .next t → modeManual t.regs = true)) ∧
    (modeOff s.regs = true →
      (exec (.setPower true) s = .next t → modeAuto t.regs = true) ∧
      (exec (.setPower false) s = .next t → modeOff t.regs = true) ∧
      (∀ r g b, exec (.setColor r g b) s = .next t → modeOff t.regs = true) ∧
      (∀ x, exec (.setBright x) s = .next t → modeOff t.regs = true) ∧
      (exec .connect s = .next t → s.regs.connected = false → modeAuto t.regs = true) ∧
      (exec .connect s = .next t → s.regs.connected = true → modeOff t.regs = true) ∧
      (exec .poll s = .next t → modeOff t.regs = true))

/-- The only ways into auto mode are a reset and a power change from off to on (the spec's reading of its transition
table). -/
def Obligations.OnlyWaysIntoAutoMode : Prop :=
  ∀ s t : State, step s = .next t → s.regs.auto = false → t.regs.auto = true →
    nextReset s = true ∨ (s.regs.power = false ∧ t.regs.power = true)

/-- After a SETCOLOR no POLL changes the targets until auto mode is entered again: over any run without reset and
without another SETCOLOR, as long as `auto` stays 0, the targets are the commanded color (the spec's own
derivation). -/
def Obligations.ManualColorHolds : Prop :=
  ∀ (n : Nat) (s t u : State) (r g b : Half), exec (.setColor r g b) s = .next t → after n t = some u →
    everyEdge (fun v => nextReset v = false ∧ v.regs.auto = false ∧
      ∀ r' g' b', nextOp v ≠ some (.setColor r' g' b')) n t →
    u.regs.tgt = ⟨clamp8 r, clamp8 g, clamp8 b⟩

/-- The startup event fires once: CONNECT sets the guard, no edge but a reset clears it, and with the guard set CONNECT
raises no event and changes nothing (decision D20). -/
def Obligations.StartupEventFiresOnce : Prop :=
  ∀ (n : Nat) (s t u v : State), exec .connect s = .next t → after n t = some u →
    everyEdge (fun x => nextReset x = false) n t → exec .connect u = .next v →
    u.regs.connected = true ∧ v.regs = u.regs ∧ v.events = ⟨none, none, none⟩

/-- R234. With `power = 0` the block is awake: every operation completes with status OK, and the ramp timer runs as
with the light on; only the outputs are zero and the palette is not advanced; all state but the flags survives an
off/on cycle. -/
def Obligations.AwakeWhileOff : Prop :=
  (∀ (i : Instr) (s : State), s.regs.power = false → ∃ t, exec i s = .next t ∧ t.status = .ok) ∧
  (∀ s t : State, s.regs.power = false → s.regs.auto = false → exec .poll s = .next t →
    t.regs.cursor = s.regs.cursor ∧ t.regs.tgt = s.regs.tgt ∧
    (rampDue s.cfg s.now s.regs = true → t.regs.rampLast = s.now ∧ t.regs.out = ⟨0, 0, 0⟩ ∧
      ∀ c, t.regs.cur.get c = step1 (s.regs.cur.get c) (s.regs.tgt.get c))) ∧
  (∀ s t u : State, exec (.setPower false) s = .next t → exec (.setPower true) t = .next u →
    u.regs = { s.regs with power := true, auto := u.regs.auto })

/-! ### Timers and events -/

/-- The elapsed test: modular subtraction over the integers; `>=`; with interval 0 always true; right across a clock
wrap when less than `2^TW` of true time has passed; a clock that went backwards by `d` looks like `2^TW - d` (decision
D2). -/
def Obligations.ElapsedTestAcrossWrap : Prop :=
  (∀ (cfg : Config) (now last interval : Nat), elapsed cfg now last interval = true ↔
    (interval : Int) ≤ ((now : Int) - last) % 2 ^ cfg.tw) ∧
  (∀ (cfg : Config) (now last : Nat), elapsed cfg now last 0 = true) ∧
  (∀ (cfg : Config) (T L interval : Nat), L ≤ T → T - L < 2 ^ cfg.tw →
    (elapsed cfg (T % 2 ^ cfg.tw) (L % 2 ^ cfg.tw) interval = true ↔ L + interval ≤ T)) ∧
  (∀ (tw now d : Nat), 0 < d → now + d < 2 ^ tw → subTW tw now (now + d) = 2 ^ tw - d)

/-- R223. The three timers are independent: at an edge that is no reset edge each stamp changes only by its own timer's
firing; the other two are not written by that firing; SETCOLOR does not restart the ramp timer, and entering or leaving
auto mode does not restart the auto-cycle timer. -/
def Obligations.TimersIndependent : Prop :=
  (∀ s t : State, step s = .next t → nextReset s = false →
    (t.regs.rampLast ≠ s.regs.rampLast → nextRampFires s = true) ∧
    (t.regs.cycleLast ≠ s.regs.cycleLast → nextCycleFires s = true) ∧
    (t.regs.reportLast ≠ s.regs.reportLast →
      (∃ r g b, nextOp s = some (.setColor r g b)) ∧ reportDue s.cfg (nextNow s) s.regs = true)) ∧
  (∀ (cfg : Config) (now : Nat) (s : Regs),
    (rampTick cfg now s).cycleLast = s.cycleLast ∧ (rampTick cfg now s).reportLast = s.reportLast ∧
    (cycleTick cfg now s).rampLast = s.rampLast ∧ (cycleTick cfg now s).reportLast = s.reportLast) ∧
  (∀ (i : Instr) (s t : State), i ≠ .poll → exec i s = .next t →
    t.regs.rampLast = s.regs.rampLast ∧ t.regs.cycleLast = s.regs.cycleLast)

/-- When a timer fires its stamp becomes the `now` of that step, not the old stamp plus the interval, and the interval
has elapsed (decision D2). -/
def Obligations.FiringStampsNow : Prop :=
  ∀ s t : State, step s = .next t → nextReset s = false →
    (nextRampFires s = true → t.regs.rampLast = nextNow s ∧
      s.cfg.rampInterval ≤ subTW s.cfg.tw (nextNow s) s.regs.rampLast) ∧
    (nextCycleFires s = true → t.regs.cycleLast = nextNow s ∧
      s.cfg.cycleInterval ≤ subTW s.cfg.tw (nextNow s) s.regs.cycleLast) ∧
    (t.events.color ≠ none → t.regs.reportLast = nextNow s ∧
      s.cfg.reportInterval ≤ subTW s.cfg.tw (nextNow s) s.regs.reportLast)

/-- Which edge raises which event: EV_STATE only SETPOWER and the first CONNECT, EV_COLOR only SETCOLOR, EV_BRIGHT only
SETBRIGHT; POLL, reset, idle cycles and rejections raise none; at most one event of any kind per step (the spec's own
derivation; strobes: decision D26). -/
def Obligations.AtMostOneEventPerStep : Prop :=
  ∀ s t : State, step s = .next t →
    (∀ v, t.events.state = some v →
      (nextOp s = some (.setPower v) ∨ (nextOp s = some .connect ∧ s.regs.connected = false ∧ v = true)) ∧
      t.regs.power = v ∧ t.events.color = none ∧ t.events.bright = none) ∧
    (∀ x, t.events.color = some x → (∃ r g b, nextOp s = some (.setColor r g b) ∧ x = clampColor r g b) ∧
      t.regs.tgt = x ∧ t.events.state = none ∧ t.events.bright = none) ∧
    (∀ x, t.events.bright = some x → nextOp s = some (.setBright x) ∧
      t.events.state = none ∧ t.events.color = none) ∧
    (nextOp s = none ∨ nextOp s = some .poll → t.events = ⟨none, none, none⟩)

/-- The reporting throttle over whole runs: if the host's clock is monotonic (bound at the edges that are steps, free in
idle cycles), any two color-changed events with no reset between them are at least the report interval apart in true time,
across any number of clock wraps and whatever happens between them. -/
def Obligations.ColorReportsRateLimited : Prop :=
  ∀ (τ : Nat → Nat) (n : Nat) (s a t : State), ClockDuty τ s → step s = .next a → a.events.color ≠ none →
    after (n + 1) a = some t → t.events.color ≠ none →
    everyEdge (fun u => nextReset u = false) (n + 1) a →
    τ 0 + s.cfg.reportInterval ≤ τ (n + 1)

/-- Re-sending an accepted command has the same effect on the state, except `report_last`; SETPOWER and SETBRIGHT emit
again, a second CONNECT does not; a POLL is not idempotent across firings (idempotence is the spec's own derivation). -/
def Obligations.CommandsIdempotentOnState : Prop :=
  (∀ (i : Instr) (s t u : State) (now : Nat), i ≠ .poll → exec i s = .next t →
    exec i { t with now := now } = .next u →
    u.regs = { t.regs with reportLast := u.regs.reportLast } ∧
    (t.events.state ≠ none → i ≠ .connect → u.events.state = t.events.state) ∧
    u.events.bright = t.events.bright ∧
    (i = .connect → u.events = ⟨none, none, none⟩)) ∧
  (∃ (s t u : State) (now : Nat), s.Inv ∧ exec .poll s = .next t ∧ exec .poll { t with now := now } = .next u ∧
    u.regs.cur ≠ t.regs.cur)

/-- SETPOWER, SETBRIGHT and CONNECT ignore `now`; a POLL word presented at a time runs both its ticks at that one
value, and a SETCOLOR word presented at a time tests its throttle against that value and, when it reports, stores it
(decision D1; that the port carries the low `TW` bits of a presented number is the model's choice,
notes/assumptions/5.md). -/
def Obligations.OnlyPollAndSetColorReadNow : Prop :=
  (∀ (i : Instr) (s t u : State) (now : Nat), i ≠ .poll → (∀ r g b, i ≠ .setColor r g b) →
    exec i s = .next t → exec i { s with now := now } = .next u → u = { t with now := now }) ∧
  (∀ (s t : State) (w : Word) (now : Nat), decode w = .op .poll → step (s.present w now) = .next t →
    t.regs = rampTick s.cfg (now % 2 ^ s.cfg.tw)
      (if s.regs.auto = true then cycleTick s.cfg (now % 2 ^ s.cfg.tw) s.regs else s.regs)) ∧
  (∀ (s t : State) (w : Word) (r g b : Half) (now : Nat), decode w = .op (.setColor r g b) →
    step (s.present w now) = .next t →
    (t.events.color ≠ none ↔ reportDue s.cfg (now % 2 ^ s.cfg.tw) s.regs = true) ∧
    t.regs.reportLast = if t.events.color ≠ none then now % 2 ^ s.cfg.tw else s.regs.reportLast)

/-- `evt_color` carries the packed triple of the step's color event, red in bits 23:16, green in 15:8, blue in 7:0,
with no bit lost (decision D11); `evt_state_on` and `evt_bright` carry the payloads of their events; no port is valid
without its event, operation by operation; the duty ports show the output registers whole in every state that meets
the invariant (that a port whose strobe is 0 shows no payload is the model's choice, notes/assumptions/6.md). -/
def Obligations.PortsCarryPayloads : Prop :=
  (∀ x : Rgb Byte, (packColor x).toNat = x.r.toNat * 65536 + x.g.toNat * 256 + x.b.toNat) ∧
  (∀ x y : Rgb Byte, packColor x = packColor y → x = y) ∧
  (∀ s : State, s.Inv → ∀ c, ((portDuty s).get c).toNat = s.regs.out.get c) ∧
  (∀ s : State, (∀ x, s.events.color = some x → portEvtColor s = some (packColor x)) ∧
    (s.events.color = none → portEvtColor s = none) ∧
    portEvtState s = s.events.state ∧ portEvtBright s = s.events.bright) ∧
  (∀ (s t : State) (v : Bool), exec (.setPower v) s = .next t →
    portEvtState t = some v ∧ portEvtColor t = none ∧ portEvtBright t = none) ∧
  (∀ s t : State, exec .connect s = .next t →
    portEvtState t = (if s.regs.connected = true then none else some true) ∧
    portEvtColor t = none ∧ portEvtBright t = none) ∧
  (∀ (s : State) (r g b : Half), reportDue s.cfg s.now s.regs = true →
    ∃ (t : State) (p : BitVec 24), exec (.setColor r g b) s = .next t ∧ portEvtColor t = some p ∧
      p.toNat = min r.toNat 255 * 65536 + min g.toNat 255 * 256 + min b.toNat 255 ∧
      portEvtState t = none ∧ portEvtBright t = none) ∧
  (∀ (s t : State) (r g b : Half), reportDue s.cfg s.now s.regs = false → exec (.setColor r g b) s = .next t →
    portEvtState t = none ∧ portEvtColor t = none ∧ portEvtBright t = none) ∧
  (∀ (s t : State) (x : Half), exec (.setBright x) s = .next t →
    portEvtBright t = some x ∧ portEvtState t = none ∧ portEvtColor t = none) ∧
  (∀ s t : State, exec .poll s = .next t →
    portEvtState t = none ∧ portEvtColor t = none ∧ portEvtBright t = none)

/-! ### Tables, configuration, reset, reachable states -/

/-- R58. No operation writes either table: over any run the configuration, both tables with it, is what it was, so a
table read always sees the build-time value. -/
def Obligations.TablesNeverWritten : Prop :=
  ∀ (n : Nat) (s t : State), after n s = some t →
    t.cfg = s.cfg ∧ (∀ x, gammaRead t.cfg x = gammaRead s.cfg x) ∧
    (∀ i, paletteRead t.cfg i = paletteRead s.cfg i)

/-- The two read-only address spaces: GAMMA has an entry for every `u8` index, PALETTE one for every index below
`PAL_LEN`, in order; in a state that meets the invariant the cursor's entry exists. -/
def Obligations.TableReadsGiveEntries : Prop :=
  (∀ (cfg : Config) (x : Byte), cfg.gamma[x.toNat]? = some (gammaRead cfg x)) ∧
  (∀ (cfg : Config) (i : Nat), i < cfg.palLen → cfg.palette[i]? = some (paletteRead cfg i)) ∧
  (∀ s : State, s.Inv → s.cfg.palette[s.regs.cursor]? = some (paletteRead s.cfg s.regs.cursor)) ∧
  (∀ s : State, s.Inv → s.regs.cursor < 2 ^ s.cfg.cursorBits)

/-- `CYCLE_INTERVAL` is the floor of the total over the palette length (decision D7): a full traversal takes at most the
total and falls short by less than one time unit per entry; 40 000 000 in CFG_REF, 40 in CFG_SMALL. -/
def Obligations.CycleIntervalIsFloor : Prop :=
  (∀ cfg : Config, cfg.WF → cfg.palLen * cfg.cycleInterval ≤ cfg.cycleTotal ∧
    cfg.cycleTotal < cfg.palLen * cfg.cycleInterval + cfg.palLen) ∧
  Config.ref.cycleInterval = 40000000 ∧ Config.small.cycleInterval = 40

/-- TIME_UNIT is informative only: two states that differ in it alone differ after any step in it alone. -/
def Obligations.TimeUnitNeverRead : Prop :=
  ∀ (s t u : State) (x : Nat), step s = .next t →
    step { s with cfg := { s.cfg with timeUnitNs := x } } = .next u →
    u = { t with cfg := { t.cfg with timeUnitNs := x } }

/-- The reset values, under any configuration and in numbers under CFG_REF. Four are the document's; `INIT_CUR`, the
cursor, the stamps and the outputs are decisions D4, D21, D3, D15 of the spec; that the fixed reset state stands under
CFG_REF is the model's choice (notes/assumptions/1.md). -/
def Obligations.ResetValues : Prop :=
  (∀ cfg : Config, (State.resetFor cfg).regs =
    { cur := cfg.initCur, tgt := ⟨255, 255, 255⟩, bright := 255, cursor := 0, power := true, auto := true,
      connected := false, rampLast := 0, cycleLast := (2 ^ cfg.tw - cfg.cycleInterval) % 2 ^ cfg.tw,
      reportLast := (2 ^ cfg.tw - cfg.reportInterval) % 2 ^ cfg.tw, out := ⟨0, 0, 0⟩ }) ∧
  State.reset = State.resetFor Config.ref ∧
  State.reset.regs.cycleLast = 0xFD9DA600 ∧ State.reset.regs.reportLast = 0xFFB3B4C0 ∧
  (Regs.reset Config.small).cycleLast = 0xFFD8 ∧ (Regs.reset Config.small).reportLast = 0xFFCE

/-- Nothing persists across reset (the reset input is decision D22): at an edge with `rst = 1`, whatever `cmd_valid`
and the word show, the state becomes the reset state at once, with status 0 and no event, and two states under one
configuration become equal in every element; a ramp in progress is discarded without ramping. That `cmd_status` is 0
at a reset edge is the model's choice (notes/assumptions/11.md), read from the clause that it returns to 0 in a cycle
that follows no step. -/
def Obligations.NothingPersistsAcrossReset : Prop :=
  (∀ (s : State) (valid : Bool) (w : Word) (now : Nat),
    step { s with host := ⟨true, valid, w, now⟩ :: s.host } =
      .next { s with regs := Regs.reset s.cfg, status := .ok, events := ⟨none, none, none⟩ }) ∧
  (∀ s s' t t' : State, s.cfg = s'.cfg → nextReset s = true → nextReset s' = true →
    step s = .next t → step s' = .next t' → t.regs = t'.regs) ∧
  (∀ s t : State, nextReset s = true → step s = .next t →
    t.regs.cur = s.cfg.initCur ∧ t.regs.out = ⟨0, 0, 0⟩)

/-- The invariant holds right after reset, under CFG_REF and under every well-formed configuration. -/
def Obligations.ResetMeetsInvariant : Prop :=
  State.reset.Inv ∧ ∀ cfg : Config, cfg.WF → (State.resetFor cfg).Inv

/-- Every step keeps the invariant, from every state that meets it: a well-formed configuration, auto mode only while
power is on, the cursor in the palette, the outputs at most `PWM_MAX`, the stamps and the sampled time in `TW` bits. -/
def Obligations.StepKeepsInvariant : Prop :=
  ∀ s t : State, s.Inv → step s = .next t → t.Inv

/-- The three invariants hold in every reachable state of every well-formed configuration, whatever the host does (the
spec's own derivation). -/
def Obligations.ReachableStatesMeetInvariants : Prop :=
  ∀ (cfg : Config) (s : State), cfg.WF → Reachable cfg s →
    (s.regs.auto = true → s.regs.power = true) ∧ s.regs.cursor < cfg.palLen ∧
    ∀ c, s.regs.out.get c ≤ cfg.pwmMax
end

