-- ==== Sys2Proof/Laws/Config.lean ====
section
/-! SUPPORT. The two configurations the spec names are well-formed (spec/00_scope.md R9, R11), and what a well-formed
configuration gives. -/

namespace Sys2Proof

theorem Config.gammaRef_getElem (i : Nat) (h : i < 256) : Config.gammaRef[i] = i * i * 1023 / 65025 := by
  simp [Config.gammaRef]

theorem Config.gammaRef_wf : (∀ i : Fin 256, Config.gammaRef[i.val] ≤ 1023) ∧
    (∀ i : Fin 255, Config.gammaRef[i.val] ≤ Config.gammaRef[i.val + 1]) := by
  constructor
  · intro i
    rw [Config.gammaRef_getElem]
    apply Nat.div_le_of_le_mul
    have : i.val * i.val ≤ 255 * 255 := Nat.mul_le_mul (by omega) (by omega)
    omega
  · intro i
    rw [Config.gammaRef_getElem, Config.gammaRef_getElem]
    apply Nat.div_le_div_right
    exact Nat.mul_le_mul_right _ (Nat.mul_le_mul (by omega) (by omega))

theorem Config.ref_wf : Config.ref.WF := ⟨by decide, by decide, by decide, Config.gammaRef_wf⟩

theorem Config.small_wf : Config.small.WF := ⟨by decide, by decide, by decide, Config.gammaRef_wf⟩

theorem Config.cycleInterval_lt {c : Config} (h : c.WF) : c.cycleInterval < 2 ^ c.tw :=
  lt_of_le_of_lt (Nat.div_le_self _ _) h.1.2.2.1

/-- The table is monotone between any two indices, from its neighbours (R101 b). -/
theorem Config.gamma_mono {c : Config} (h : c.WF) {i j : Nat} (hij : i ≤ j) (hj : j < 256) :
    c.gamma[i]'(by omega) ≤ c.gamma[j] := by
  induction j, hij using Nat.le_induction with
  | base => exact le_rfl
  | succ k hk ih => exact (ih (by omega)).trans (h.2.2.2.2 ⟨k, by omega⟩)

end Sys2Proof
end

