-- ==== Sys2Proof/Laws/Decode.lean ====
section
/-! SUPPORT. The fields of a command word as numbers (spec/30_encoding.md R72): the arithmetic behind decoding. -/

namespace Sys2Proof

theorem fieldOpcode_toNat (w : Word) : (fieldOpcode w).toNat = w.toNat / 2 ^ 56 := by
  have := w.isLt
  simp [fieldOpcode, BitVec.extractLsb'_toNat, Nat.shiftRight_eq_div_pow]
  omega

theorem fieldReserved_toNat (w : Word) : (fieldReserved w).toNat = w.toNat / 2 ^ 48 % 2 ^ 8 := by
  simp [fieldReserved, BitVec.extractLsb'_toNat, Nat.shiftRight_eq_div_pow]

theorem fieldA_toNat (w : Word) : (fieldA w).toNat = w.toNat / 2 ^ 32 % 2 ^ 16 := by
  simp [fieldA, BitVec.extractLsb'_toNat, Nat.shiftRight_eq_div_pow]

theorem fieldB_toNat (w : Word) : (fieldB w).toNat = w.toNat / 2 ^ 16 % 2 ^ 16 := by
  simp [fieldB, BitVec.extractLsb'_toNat, Nat.shiftRight_eq_div_pow]

theorem fieldC_toNat (w : Word) : (fieldC w).toNat = w.toNat % 2 ^ 16 := by
  simp [fieldC, BitVec.extractLsb'_toNat]

end Sys2Proof
end

