-- ==== Sys2Proof/Laws/State.lean ====
section
/-! SUPPORT. One lemma per field per update, true by rfl: later proofs need not unfold a record update. -/

namespace Sys2Proof.Machine

section setTargets
variable (t : Rgb Byte) (s : Regs)

@[simp] theorem setTargets_cur : (setTargets t s).cur = s.cur := rfl
@[simp] theorem setTargets_tgt : (setTargets t s).tgt = t := rfl
@[simp] theorem setTargets_bright : (setTargets t s).bright = s.bright := rfl
@[simp] theorem setTargets_cursor : (setTargets t s).cursor = s.cursor := rfl
@[simp] theorem setTargets_power : (setTargets t s).power = s.power := rfl
@[simp] theorem setTargets_auto : (setTargets t s).auto = s.auto := rfl
@[simp] theorem setTargets_connected : (setTargets t s).connected = s.connected := rfl
@[simp] theorem setTargets_rampLast : (setTargets t s).rampLast = s.rampLast := rfl
@[simp] theorem setTargets_cycleLast : (setTargets t s).cycleLast = s.cycleLast := rfl
@[simp] theorem setTargets_reportLast : (setTargets t s).reportLast = s.reportLast := rfl
@[simp] theorem setTargets_out : (setTargets t s).out = s.out := rfl

end setTargets

section setBrightnessTarget
variable (v : Byte) (s : Regs)

@[simp] theorem setBrightnessTarget_cur : (setBrightnessTarget v s).cur = s.cur := rfl
@[simp] theorem setBrightnessTarget_tgt : (setBrightnessTarget v s).tgt = s.tgt := rfl
@[simp] theorem setBrightnessTarget_bright : (setBrightnessTarget v s).bright = v := rfl
@[simp] theorem setBrightnessTarget_cursor : (setBrightnessTarget v s).cursor = s.cursor := rfl
@[simp] theorem setBrightnessTarget_power : (setBrightnessTarget v s).power = s.power := rfl
@[simp] theorem setBrightnessTarget_auto : (setBrightnessTarget v s).auto = s.auto := rfl
@[simp] theorem setBrightnessTarget_connected : (setBrightnessTarget v s).connected = s.connected := rfl
@[simp] theorem setBrightnessTarget_rampLast : (setBrightnessTarget v s).rampLast = s.rampLast := rfl
@[simp] theorem setBrightnessTarget_cycleLast : (setBrightnessTarget v s).cycleLast = s.cycleLast := rfl
@[simp] theorem setBrightnessTarget_reportLast : (setBrightnessTarget v s).reportLast = s.reportLast := rfl
@[simp] theorem setBrightnessTarget_out : (setBrightnessTarget v s).out = s.out := rfl

end setBrightnessTarget

section setPowerAction
variable (v : Bool) (s : Regs)

@[simp] theorem setPowerAction_cur : (setPowerAction v s).cur = s.cur := rfl
@[simp] theorem setPowerAction_tgt : (setPowerAction v s).tgt = s.tgt := rfl
@[simp] theorem setPowerAction_bright : (setPowerAction v s).bright = s.bright := rfl
@[simp] theorem setPowerAction_cursor : (setPowerAction v s).cursor = s.cursor := rfl
@[simp] theorem setPowerAction_power : (setPowerAction v s).power = v := rfl
@[simp] theorem setPowerAction_auto : (setPowerAction v s).auto = autoAfterPower v s := rfl
@[simp] theorem setPowerAction_connected : (setPowerAction v s).connected = s.connected := rfl
@[simp] theorem setPowerAction_rampLast : (setPowerAction v s).rampLast = s.rampLast := rfl
@[simp] theorem setPowerAction_cycleLast : (setPowerAction v s).cycleLast = s.cycleLast := rfl
@[simp] theorem setPowerAction_reportLast : (setPowerAction v s).reportLast = s.reportLast := rfl
@[simp] theorem setPowerAction_out : (setPowerAction v s).out = s.out := rfl

end setPowerAction

section manualColor
variable (t : Rgb Byte) (s : Regs)

@[simp] theorem manualColor_cur : (manualColor t s).cur = s.cur := rfl
@[simp] theorem manualColor_tgt : (manualColor t s).tgt = t := rfl
@[simp] theorem manualColor_bright : (manualColor t s).bright = s.bright := rfl
@[simp] theorem manualColor_cursor : (manualColor t s).cursor = s.cursor := rfl
@[simp] theorem manualColor_power : (manualColor t s).power = s.power := rfl
@[simp] theorem manualColor_auto : (manualColor t s).auto = false := rfl
@[simp] theorem manualColor_connected : (manualColor t s).connected = s.connected := rfl
@[simp] theorem manualColor_rampLast : (manualColor t s).rampLast = s.rampLast := rfl
@[simp] theorem manualColor_cycleLast : (manualColor t s).cycleLast = s.cycleLast := rfl
@[simp] theorem manualColor_reportLast : (manualColor t s).reportLast = s.reportLast := rfl
@[simp] theorem manualColor_out : (manualColor t s).out = s.out := rfl

end manualColor

section outputDriver
variable (cfg : Config) (s : Regs)

@[simp] theorem outputDriver_cur : (outputDriver cfg s).cur = s.cur := rfl
@[simp] theorem outputDriver_tgt : (outputDriver cfg s).tgt = s.tgt := rfl
@[simp] theorem outputDriver_bright : (outputDriver cfg s).bright = s.bright := rfl
@[simp] theorem outputDriver_cursor : (outputDriver cfg s).cursor = s.cursor := rfl
@[simp] theorem outputDriver_power : (outputDriver cfg s).power = s.power := rfl
@[simp] theorem outputDriver_auto : (outputDriver cfg s).auto = s.auto := rfl
@[simp] theorem outputDriver_connected : (outputDriver cfg s).connected = s.connected := rfl
@[simp] theorem outputDriver_rampLast : (outputDriver cfg s).rampLast = s.rampLast := rfl
@[simp] theorem outputDriver_cycleLast : (outputDriver cfg s).cycleLast = s.cycleLast := rfl
@[simp] theorem outputDriver_reportLast : (outputDriver cfg s).reportLast = s.reportLast := rfl
@[simp] theorem outputDriver_out : (outputDriver cfg s).out = s.cur.map (outputLevel cfg s) := rfl

end outputDriver

section rampFire
variable (cfg : Config) (now : Nat) (s : Regs)

@[simp] theorem rampFire_cur : (rampFire cfg now s).cur = s.cur.map₂ step1 s.tgt := rfl
@[simp] theorem rampFire_tgt : (rampFire cfg now s).tgt = s.tgt := rfl
@[simp] theorem rampFire_bright : (rampFire cfg now s).bright = s.bright := rfl
@[simp] theorem rampFire_cursor : (rampFire cfg now s).cursor = s.cursor := rfl
@[simp] theorem rampFire_power : (rampFire cfg now s).power = s.power := rfl
@[simp] theorem rampFire_auto : (rampFire cfg now s).auto = s.auto := rfl
@[simp] theorem rampFire_connected : (rampFire cfg now s).connected = s.connected := rfl
@[simp] theorem rampFire_rampLast : (rampFire cfg now s).rampLast = now := rfl
@[simp] theorem rampFire_cycleLast : (rampFire cfg now s).cycleLast = s.cycleLast := rfl
@[simp] theorem rampFire_reportLast : (rampFire cfg now s).reportLast = s.reportLast := rfl
@[simp] theorem rampFire_out : (rampFire cfg now s).out = (s.cur.map₂ step1 s.tgt).map (outputLevel cfg s) := rfl

end rampFire

section cycleFire
variable (cfg : Config) (now : Nat) (s : Regs)

@[simp] theorem cycleFire_cur : (cycleFire cfg now s).cur = s.cur := rfl
@[simp] theorem cycleFire_tgt : (cycleFire cfg now s).tgt = paletteRead cfg s.cursor := rfl
@[simp] theorem cycleFire_bright : (cycleFire cfg now s).bright = s.bright := rfl
@[simp] theorem cycleFire_cursor : (cycleFire cfg now s).cursor = nextCursor cfg s.cursor := rfl
@[simp] theorem cycleFire_power : (cycleFire cfg now s).power = s.power := rfl
@[simp] theorem cycleFire_auto : (cycleFire cfg now s).auto = s.auto := rfl
@[simp] theorem cycleFire_connected : (cycleFire cfg now s).connected = s.connected := rfl
@[simp] theorem cycleFire_rampLast : (cycleFire cfg now s).rampLast = s.rampLast := rfl
@[simp] theorem cycleFire_cycleLast : (cycleFire cfg now s).cycleLast = now := rfl
@[simp] theorem cycleFire_reportLast : (cycleFire cfg now s).reportLast = s.reportLast := rfl
@[simp] theorem cycleFire_out : (cycleFire cfg now s).out = s.out := rfl

end cycleFire

section complete
variable (r : Regs) (ev : Events) (s : State)

@[simp] theorem State.complete_cfg : (s.complete r ev).cfg = s.cfg := rfl
@[simp] theorem State.complete_regs : (s.complete r ev).regs = r := rfl
@[simp] theorem State.complete_now : (s.complete r ev).now = s.now := rfl
@[simp] theorem State.complete_host : (s.complete r ev).host = s.host := rfl
@[simp] theorem State.complete_status : (s.complete r ev).status = .ok := rfl
@[simp] theorem State.complete_events : (s.complete r ev).events = ev := rfl

end complete

section reject
variable (why : Reject) (s : State)

@[simp] theorem State.reject_cfg : (s.reject why).cfg = s.cfg := rfl
@[simp] theorem State.reject_regs : (s.reject why).regs = s.regs := rfl
@[simp] theorem State.reject_now : (s.reject why).now = s.now := rfl
@[simp] theorem State.reject_host : (s.reject why).host = s.host := rfl
@[simp] theorem State.reject_status : (s.reject why).status = rejectStatus why := rfl
@[simp] theorem State.reject_events : (s.reject why).events = .quiet := rfl

end reject

section idle
variable  (s : State)

@[simp] theorem State.idle_cfg : (s.idle).cfg = s.cfg := rfl
@[simp] theorem State.idle_regs : (s.idle).regs = s.regs := rfl
@[simp] theorem State.idle_now : (s.idle).now = s.now := rfl
@[simp] theorem State.idle_host : (s.idle).host = s.host := rfl
@[simp] theorem State.idle_status : (s.idle).status = .ok := rfl
@[simp] theorem State.idle_events : (s.idle).events = .quiet := rfl

end idle

section applyReset
variable  (s : State)

@[simp] theorem State.applyReset_cfg : (s.applyReset).cfg = s.cfg := rfl
@[simp] theorem State.applyReset_regs : (s.applyReset).regs = Regs.reset s.cfg := rfl
@[simp] theorem State.applyReset_now : (s.applyReset).now = s.now := rfl
@[simp] theorem State.applyReset_host : (s.applyReset).host = s.host := rfl
@[simp] theorem State.applyReset_status : (s.applyReset).status = .ok := rfl
@[simp] theorem State.applyReset_events : (s.applyReset).events = .quiet := rfl

end applyReset

section sample
variable (t : Nat) (s : State)

@[simp] theorem State.sample_cfg : (s.sample t).cfg = s.cfg := rfl
@[simp] theorem State.sample_regs : (s.sample t).regs = s.regs := rfl
@[simp] theorem State.sample_now : (s.sample t).now = sampleTime s.cfg t := rfl
@[simp] theorem State.sample_host : (s.sample t).host = s.host := rfl
@[simp] theorem State.sample_status : (s.sample t).status = s.status := rfl
@[simp] theorem State.sample_events : (s.sample t).events = s.events := rfl

end sample

section present
variable (w : Word) (t : Nat) (s : State)

@[simp] theorem State.present_cfg : (s.present w t).cfg = s.cfg := rfl
@[simp] theorem State.present_regs : (s.present w t).regs = s.regs := rfl
@[simp] theorem State.present_now : (s.present w t).now = s.now := rfl
@[simp] theorem State.present_host : (s.present w t).host = { rst := false, cmdValid := true, cmdWord := w, now := t } :: s.host := rfl
@[simp] theorem State.present_status : (s.present w t).status = s.status := rfl
@[simp] theorem State.present_events : (s.present w t).events = s.events := rfl

end present

@[simp] theorem emitState_state (v : Bool) : (emitState v).state = some v := rfl
@[simp] theorem emitState_color (v : Bool) : (emitState v).color = none := rfl
@[simp] theorem emitState_bright (v : Bool) : (emitState v).bright = none := rfl
@[simp] theorem emitColor_state (v : Rgb Byte) : (emitColor v).state = none := rfl
@[simp] theorem emitColor_color (v : Rgb Byte) : (emitColor v).color = some v := rfl
@[simp] theorem emitColor_bright (v : Rgb Byte) : (emitColor v).bright = none := rfl
@[simp] theorem emitBright_state (v : Half) : (emitBright v).state = none := rfl
@[simp] theorem emitBright_color (v : Half) : (emitBright v).color = none := rfl
@[simp] theorem emitBright_bright (v : Half) : (emitBright v).bright = some v := rfl
@[simp] theorem Events.quiet_state : Events.quiet.state = none := rfl
@[simp] theorem Events.quiet_color : Events.quiet.color = none := rfl
@[simp] theorem Events.quiet_bright : Events.quiet.bright = none := rfl

@[simp] theorem Rgb_map_get {α β : Type} (f : α → β) (x : Rgb α) (c : Channel) : (x.map f).get c = f (x.get c) := by
  cases c <;> rfl

@[simp] theorem Rgb_map₂_get {α β γ : Type} (f : α → β → γ) (x : Rgb α) (y : Rgb β) (c : Channel) :
    (x.map₂ f y).get c = f (x.get c) (y.get c) := by
  cases c <;> rfl

/-- Two triples that agree on every channel are equal. -/
theorem Rgb_ext_get {α : Type} {x y : Rgb α} (h : ∀ c, x.get c = y.get c) : x = y := by
  cases x; cases y
  simpa [Rgb.get] using And.intro (h .red) (And.intro (h .green) (h .blue))

end Sys2Proof.Machine
end

