-- ==== Sys2Proof/Laws/Time.lean ====
section
/-! SUPPORT. Modular time: what `subTW` and `elapsed` (spec/60_exceptions.md R221) are, in exact integers and in true time. -/

namespace Sys2Proof.Machine

theorem subTW_lt (tw a b : Nat) : subTW tw a b < 2 ^ tw := BitVec.isLt _

/-- The definition of R13, read over the integers. -/
theorem subTW_eq_int (tw a b : Nat) : (subTW tw a b : Int) = ((a : Int) - b) % 2 ^ tw := by
  have hM : 0 < 2 ^ tw := Nat.two_pow_pos tw
  have hb : b % 2 ^ tw ≤ 2 ^ tw := (Nat.mod_lt _ hM).le
  rw [subTW, BitVec.toNat_sub, BitVec.toNat_ofNat, BitVec.toNat_ofNat, Int.natCast_mod, Int.natCast_add,
    Int.natCast_sub hb, Int.natCast_mod, Int.natCast_mod]
  push_cast
  rw [show ((2 : Int) ^ tw - b % 2 ^ tw + a % 2 ^ tw) = (a % 2 ^ tw - b % 2 ^ tw) + 2 ^ tw by ring,
    Int.add_emod_right, ← Int.sub_emod]

/-- No wrap between the stamp and `now`: the plain difference. -/
theorem subTW_of_le {tw a b : Nat} (h : b ≤ a) (ha : a < 2 ^ tw) : subTW tw a b = a - b := by
  have := subTW_eq_int tw a b
  rw [← Int.natCast_sub h] at this
  rw [Int.emod_eq_of_lt (by positivity) (by exact_mod_cast lt_of_le_of_lt (Nat.sub_le a b) ha)] at this
  exact_mod_cast this

/-- One wrap, or a clock that went backwards by `b - a`. -/
theorem subTW_of_lt {tw a b : Nat} (h : a < b) (hb : b ≤ 2 ^ tw) : subTW tw a b = 2 ^ tw - (b - a) := by
  have e := subTW_eq_int tw a b
  have hM : ((2 ^ tw : Nat) : Int) = 2 ^ tw := by push_cast; rfl
  rw [← Int.add_emod_right, Int.emod_eq_of_lt] at e <;> omega

/-- Only the low `TW` bits of either time matter. -/
theorem subTW_mod (tw a b : Nat) : subTW tw (a % 2 ^ tw) (b % 2 ^ tw) = subTW tw a b := by
  have e := subTW_eq_int tw (a % 2 ^ tw) (b % 2 ^ tw)
  push_cast at e
  rw [← Int.sub_emod, ← subTW_eq_int] at e
  exact_mod_cast e

/-- In true time: the difference, reduced modulo `2^TW` (R254). -/
theorem subTW_mod_of_le {tw a b : Nat} (h : b ≤ a) : subTW tw (a % 2 ^ tw) (b % 2 ^ tw) = (a - b) % 2 ^ tw := by
  have e := subTW_eq_int tw a b
  rw [← Int.natCast_sub h] at e
  rw [subTW_mod]
  exact_mod_cast e

theorem elapsed_iff (cfg : Config) (now last interval : Nat) :
    elapsed cfg now last interval = true ↔ (interval : Int) ≤ ((now : Int) - last) % 2 ^ cfg.tw := by
  rw [elapsed, decide_eq_true_iff, ← subTW_eq_int]
  exact_mod_cast Iff.rfl

theorem elapsed_zero (cfg : Config) (now last : Nat) : elapsed cfg now last 0 = true := by simp [elapsed]

/-- A timer that fires at true time `T` against a stamp of true time `L <= T` has really waited its interval; no premise
on wrap is needed for this direction. -/
theorem true_time_of_elapsed {cfg : Config} {T L interval : Nat} (h : L ≤ T)
    (he : elapsed cfg (T % 2 ^ cfg.tw) (L % 2 ^ cfg.tw) interval = true) : L + interval ≤ T := by
  rw [elapsed, decide_eq_true_iff, subTW_mod_of_le h] at he
  have := Nat.mod_le (T - L) (2 ^ cfg.tw)
  omega

theorem sampleTime_lt (cfg : Config) (t : Nat) : sampleTime cfg t < 2 ^ cfg.tw :=
  Nat.mod_lt _ (Nat.two_pow_pos _)

@[simp] theorem sampleTime_mod (cfg : Config) (t : Nat) : sampleTime cfg (t % 2 ^ cfg.tw) = t % 2 ^ cfg.tw :=
  Nat.mod_mod _ _

end Sys2Proof.Machine
end

