-- ==== Sys2Proof/Laws/Ops.lean ====
section
/-! SUPPORT. For each shared operation, once, everything it can do. -/

namespace Sys2Proof.Machine

theorem rampTick_cases (cfg : Config) (now : Nat) (s : Regs) :
    (rampDue cfg now s = true ∧ rampTick cfg now s = rampFire cfg now s) ∨
    (rampDue cfg now s = false ∧ rampTick cfg now s = s) := by
  unfold rampTick
  cases h : rampDue cfg now s <;> simp

theorem cycleTick_cases (cfg : Config) (now : Nat) (s : Regs) :
    (cycleDue cfg now s = true ∧ cycleTick cfg now s = cycleFire cfg now s) ∨
    (cycleDue cfg now s = false ∧ cycleTick cfg now s = s) := by
  unfold cycleTick
  cases h : cycleDue cfg now s <;> simp

/-- The auto-cycle half of POLL either fires, in auto mode with its interval elapsed, or does nothing. -/
theorem autoTick_cases (cfg : Config) (now : Nat) (s : Regs) :
    (s.auto = true ∧ cycleDue cfg now s = true ∧ autoTick cfg now s = cycleFire cfg now s) ∨
    ((s.auto = false ∨ cycleDue cfg now s = false) ∧ autoTick cfg now s = s) := by
  unfold autoTick cycleTick
  cases h : cycleDue cfg now s <;> cases ha : s.auto <;> simp

section
variable (cfg : Config) (now : Nat) (s : Regs)

/-! What the two halves of POLL leave alone (R113, R150). -/

@[simp] theorem rampTick_tgt : (rampTick cfg now s).tgt = s.tgt := by
  rcases rampTick_cases cfg now s with ⟨_, e⟩ | ⟨_, e⟩ <;> simp [e]

@[simp] theorem rampTick_bright : (rampTick cfg now s).bright = s.bright := by
  rcases rampTick_cases cfg now s with ⟨_, e⟩ | ⟨_, e⟩ <;> simp [e]

@[simp] theorem rampTick_cursor : (rampTick cfg now s).cursor = s.cursor := by
  rcases rampTick_cases cfg now s with ⟨_, e⟩ | ⟨_, e⟩ <;> simp [e]

@[simp] theorem rampTick_power : (rampTick cfg now s).power = s.power := by
  rcases rampTick_cases cfg now s with ⟨_, e⟩ | ⟨_, e⟩ <;> simp [e]

@[simp] theorem rampTick_auto : (rampTick cfg now s).auto = s.auto := by
  rcases rampTick_cases cfg now s with ⟨_, e⟩ | ⟨_, e⟩ <;> simp [e]

@[simp] theorem rampTick_connected : (rampTick cfg now s).connected = s.connected := by
  rcases rampTick_cases cfg now s with ⟨_, e⟩ | ⟨_, e⟩ <;> simp [e]

@[simp] theorem rampTick_cycleLast : (rampTick cfg now s).cycleLast = s.cycleLast := by
  rcases rampTick_cases cfg now s with ⟨_, e⟩ | ⟨_, e⟩ <;> simp [e]

@[simp] theorem rampTick_reportLast : (rampTick cfg now s).reportLast = s.reportLast := by
  rcases rampTick_cases cfg now s with ⟨_, e⟩ | ⟨_, e⟩ <;> simp [e]

@[simp] theorem autoTick_cur : (autoTick cfg now s).cur = s.cur := by
  rcases autoTick_cases cfg now s with ⟨_, _, e⟩ | ⟨_, e⟩ <;> simp [e]

@[simp] theorem autoTick_bright : (autoTick cfg now s).bright = s.bright := by
  rcases autoTick_cases cfg now s with ⟨_, _, e⟩ | ⟨_, e⟩ <;> simp [e]

@[simp] theorem autoTick_power : (autoTick cfg now s).power = s.power := by
  rcases autoTick_cases cfg now s with ⟨_, _, e⟩ | ⟨_, e⟩ <;> simp [e]

@[simp] theorem autoTick_auto : (autoTick cfg now s).auto = s.auto := by
  rcases autoTick_cases cfg now s with ⟨_, _, e⟩ | ⟨_, e⟩ <;> simp [e]

@[simp] theorem autoTick_connected : (autoTick cfg now s).connected = s.connected := by
  rcases autoTick_cases cfg now s with ⟨_, _, e⟩ | ⟨_, e⟩ <;> simp [e]

@[simp] theorem autoTick_rampLast : (autoTick cfg now s).rampLast = s.rampLast := by
  rcases autoTick_cases cfg now s with ⟨_, _, e⟩ | ⟨_, e⟩ <;> simp [e]

@[simp] theorem autoTick_reportLast : (autoTick cfg now s).reportLast = s.reportLast := by
  rcases autoTick_cases cfg now s with ⟨_, _, e⟩ | ⟨_, e⟩ <;> simp [e]

@[simp] theorem autoTick_out : (autoTick cfg now s).out = s.out := by
  rcases autoTick_cases cfg now s with ⟨_, _, e⟩ | ⟨_, e⟩ <;> simp [e]

end

/-- The auto-cycle half of POLL does not touch what the ramp timer's test reads. -/
@[simp] theorem rampDue_autoTick (cfg : Config) (now : Nat) (s : Regs) :
    rampDue cfg now (autoTick cfg now s) = rampDue cfg now s := by
  simp [rampDue]

/-- Nor what the output level depends on, beside the current values. -/
@[simp] theorem outputLevel_autoTick (cfg : Config) (now : Nat) (s : Regs) (x : Byte) :
    outputLevel cfg (autoTick cfg now s) x = outputLevel cfg s x := by
  simp [outputLevel, scaleDuty]

theorem pollRegs_of_rampDue {cfg : Config} {now : Nat} {s : Regs} (h : rampDue cfg now s = true) :
    pollRegs cfg now s = rampFire cfg now (autoTick cfg now s) := by
  simp [pollRegs, rampTick, h]

theorem pollRegs_of_not_rampDue {cfg : Config} {now : Nat} {s : Regs} (h : rampDue cfg now s = false) :
    pollRegs cfg now s = autoTick cfg now s := by
  simp [pollRegs, rampTick, h]

/-- The Auto Mode Flag after a power action, in the other reading order. -/
theorem autoAfterPower_eq (v : Bool) (s : Regs) : autoAfterPower v s = if v = s.power then s.auto else v := by
  unfold autoAfterPower; split <;> simp_all

theorem gammaRead_eq (cfg : Config) (i : Byte) : gammaRead cfg i = cfg.gamma[i.toNat]'i.isLt := rfl

theorem paletteRead_of_lt {cfg : Config} {i : Nat} (h : i < cfg.palLen) :
    paletteRead cfg i = cfg.palette[i]'h := by
  simp only [paletteRead, List.getElem?_eq_getElem (show i < cfg.palette.length from h)]
  rfl

theorem nextCursor_lt {cfg : Config} (h : cfg.WF) (k : Nat) : nextCursor cfg k < cfg.palLen :=
  Nat.mod_lt _ h.2.1

theorem clamp8_toNat (x : Half) : (clamp8 x).toNat = min x.toNat 255 := by
  rw [clamp8, BitVec.toNat_ofNat, Nat.mod_eq_of_lt (by omega)]

theorem gammaLookup_le {cfg : Config} (h : cfg.WF) (x : Byte) : gammaLookup cfg x ≤ cfg.pwmMax :=
  h.2.2.2.1 ⟨x.toNat, x.isLt⟩

theorem outputLevel_le_gamma (cfg : Config) (s : Regs) (x : Byte) : outputLevel cfg s x ≤ gammaLookup cfg x := by
  unfold outputLevel scaleDuty
  split
  · apply Nat.div_le_of_le_mul
    exact Nat.mul_le_mul_right _ (by have := s.bright.isLt; simp only [Config.maxLogical]; omega)
  · exact Nat.zero_le _

theorem outputLevel_off {cfg : Config} {s : Regs} (h : s.power = false) (x : Byte) : outputLevel cfg s x = 0 := by
  simp [outputLevel, scaleDuty, h]

/-- The unit step as a number: one up, one down or nothing, with no wrap (R112). -/
theorem step1_toNat (cur tgt : Byte) : (step1 cur tgt).toNat =
    if cur.toNat < tgt.toNat then cur.toNat + 1 else if tgt.toNat < cur.toNat then cur.toNat - 1 else cur.toNat := by
  have := cur.isLt
  have := tgt.isLt
  unfold step1
  simp only [BitVec.lt_def]
  split
  · rw [BitVec.toNat_add, show (1 : Byte).toNat = 1 from rfl]; omega
  · split
    · rw [BitVec.toNat_sub, show (1 : Byte).toNat = 1 from rfl]; omega
    · rfl

end Sys2Proof.Machine
end

