-- ==== Sys2Proof/Laws/Inv.lean ====
section
/-! SUPPORT. Each operation over the block's state keeps the invariant of spec/10_state.md R32. -/

namespace Sys2Proof.Machine

theorem Regs.reset_inv {cfg : Config} (h : cfg.WF) : (Regs.reset cfg).Inv cfg where
  autoOnlyWhenOn _ := rfl
  cursorInPalette := h.2.1
  outInRange c := by cases c <;> exact Nat.zero_le _
  rampLastInRange := Nat.two_pow_pos _
  cycleLastInRange := Nat.mod_lt _ (Nat.two_pow_pos _)
  reportLastInRange := Nat.mod_lt _ (Nat.two_pow_pos _)

section
variable {cfg : Config} {now : Nat} {s : Regs}

theorem rampFire_inv (hc : cfg.WF) (hn : now < 2 ^ cfg.tw) (h : s.Inv cfg) : (rampFire cfg now s).Inv cfg where
  autoOnlyWhenOn := h.autoOnlyWhenOn
  cursorInPalette := h.cursorInPalette
  outInRange c := by
    rw [rampFire_out, Rgb_map_get]
    exact (outputLevel_le_gamma ..).trans (gammaLookup_le hc _)
  rampLastInRange := hn
  cycleLastInRange := h.cycleLastInRange
  reportLastInRange := h.reportLastInRange

theorem cycleFire_inv (hc : cfg.WF) (hn : now < 2 ^ cfg.tw) (h : s.Inv cfg) : (cycleFire cfg now s).Inv cfg where
  autoOnlyWhenOn := h.autoOnlyWhenOn
  cursorInPalette := nextCursor_lt hc _
  outInRange := h.outInRange
  rampLastInRange := h.rampLastInRange
  cycleLastInRange := hn
  reportLastInRange := h.reportLastInRange

theorem pollRegs_inv (hc : cfg.WF) (hn : now < 2 ^ cfg.tw) (h : s.Inv cfg) : (pollRegs cfg now s).Inv cfg := by
  have ha : (autoTick cfg now s).Inv cfg := by
    rcases autoTick_cases cfg now s with ⟨_, _, e⟩ | ⟨_, e⟩ <;> rw [e]
    · exact cycleFire_inv hc hn h
    · exact h
  rcases rampTick_cases cfg now (autoTick cfg now s) with ⟨_, e⟩ | ⟨_, e⟩ <;> rw [pollRegs, e]
  · exact rampFire_inv hc hn ha
  · exact ha

/-- R137: the arbiter keeps I-a, since a changed power value is copied to `auto`. -/
theorem setPowerAction_inv (v : Bool) (h : s.Inv cfg) : (setPowerAction v s).Inv cfg where
  autoOnlyWhenOn := by
    have := h.autoOnlyWhenOn
    simp only [setPowerAction_auto, setPowerAction_power, autoAfterPower]
    cases v <;> cases hp : s.power <;> simp_all
  cursorInPalette := h.cursorInPalette
  outInRange := h.outInRange
  rampLastInRange := h.rampLastInRange
  cycleLastInRange := h.cycleLastInRange
  reportLastInRange := h.reportLastInRange

theorem manualColor_inv (t : Rgb Byte) (h : s.Inv cfg) : (manualColor t s).Inv cfg where
  autoOnlyWhenOn := by simp
  cursorInPalette := h.cursorInPalette
  outInRange := h.outInRange
  rampLastInRange := h.rampLastInRange
  cycleLastInRange := h.cycleLastInRange
  reportLastInRange := h.reportLastInRange

end

end Sys2Proof.Machine
end

