-- ==== Sys2Proof/Laws/PerInstr.lean ====
section
/-! SUPPORT. Per-instruction laws: the word of an instruction lies in its row of the opcode table (family `TableRow`). -/

namespace Sys2Proof.Laws.TableRow

/-- `W & mask = match` for the word of `i` and the row of `i` (spec/30_encoding.md R74 to R77, R79). -/
def Statement (i : Instr) : Prop := (rowOf i).covers (encode i) = true

theorem poll : Statement .poll := rfl

theorem setPower (v : Bool) : Statement (.setPower v) := by cases v <;> rfl

theorem setColor (red green blue : Half) : Statement (.setColor red green blue) := by
  simp only [Statement, OpcodeRow.covers, rowOf, encode, beq_iff_eq]
  apply BitVec.eq_of_getLsbD_eq
  intro k hk
  interval_cases k <;> simp

theorem setBright (value : Half) : Statement (.setBright value) := by
  simp only [Statement, OpcodeRow.covers, rowOf, encode, beq_iff_eq]
  apply BitVec.eq_of_getLsbD_eq
  intro k hk
  interval_cases k <;> simp

theorem connect : Statement .connect := rfl

end Sys2Proof.Laws.TableRow

namespace Sys2Proof

/-- No word lies in two rows: the table is unambiguous. -/
theorem opcodeTable_disjoint :
    opcodeTable.Pairwise fun a b => (a.pattern ^^^ b.pattern) &&& a.mask &&& b.mask ≠ 0 := by
  decide

end Sys2Proof
end

