-- ==== Sys2Proof/Laws/Step.lean ====
section
/-! SUPPORT. What an operation and an edge can do, said once: the meanings as equations, the inversion of `exec` and of
`step`, and the composition of runs. -/

namespace Sys2Proof.Machine

section
variable (s : State)

theorem exec_poll : exec .poll s = .next (s.complete (pollRegs s.cfg s.now s.regs) .quiet) := rfl

theorem exec_setPower (v : Bool) : exec (.setPower v) s = .next (s.complete (setPowerAction v s.regs) (emitState v)) := rfl

theorem exec_setBright (value : Half) : exec (.setBright value) s =
    .next (s.complete (setBrightnessTarget (clamp8 value) s.regs) (emitBright value)) := rfl

theorem exec_setColor_reported {red green blue : Half} (h : reportDue s.cfg s.now s.regs = true) :
    exec (.setColor red green blue) s =
      .next (s.complete { manualColor (clampColor red green blue) s.regs with reportLast := s.now }
        (emitColor (clampColor red green blue))) := by
  simp [exec, execSetColor, h]

theorem exec_setColor_throttled {red green blue : Half} (h : reportDue s.cfg s.now s.regs = false) :
    exec (.setColor red green blue) s =
      .next (s.complete (manualColor (clampColor red green blue) s.regs) .quiet) := by
  simp [exec, execSetColor, h]

theorem exec_connect_first (h : s.regs.connected = false) : exec .connect s =
    .next (s.complete { setPowerAction true s.regs with connected := true } (emitState true)) := by
  simp [exec, execConnect, h]

theorem exec_connect_again (h : s.regs.connected = true) : exec .connect s = .next (s.complete s.regs .quiet) := by
  simp [exec, execConnect, h]

end

/-- Every operation completes in every state (R201: no operation fails once decoded). -/
theorem exec_next (i : Instr) (s : State) : ∃ t, exec i s = .next t := by
  cases i <;> exact ⟨_, rfl⟩

/-- An operation ends with status OK and touches neither the configuration nor the host's side. -/
theorem exec_frame {i : Instr} {s t : State} (h : exec i s = .next t) :
    t.cfg = s.cfg ∧ t.host = s.host ∧ t.now = s.now ∧ t.status = .ok := by
  cases i <;> simp only [exec, execPoll, execSetPower, execSetColor, execSetBright, execConnect] at h <;>
    cases h <;> (try split) <;> exact ⟨rfl, rfl, rfl, rfl⟩

/-- The state in which an edge executes its operation. -/
def atEdge (s : State) : State := { s with host := s.host.tail, now := nextNow s }

@[simp] theorem atEdge_cfg (s : State) : (atEdge s).cfg = s.cfg := rfl
@[simp] theorem atEdge_regs (s : State) : (atEdge s).regs = s.regs := rfl
@[simp] theorem atEdge_now (s : State) : (atEdge s).now = nextNow s := rfl
@[simp] theorem atEdge_host (s : State) : (atEdge s).host = s.host.tail := rfl

/-- Everything one edge can do: a reset; no operation (idle, or a rejected word, which shows in the status alone); or the
operation of a decoded word, executed with `now` sampled. -/
theorem step_cases {s t : State} (h : step s = .next t) :
    (nextReset s = true ∧ nextOp s = none ∧ t = State.applyReset { s with host := s.host.tail }) ∨
    (nextReset s = false ∧ nextOp s = none ∧ ∃ st, t = { s with host := s.host.tail, status := st, events := .quiet }) ∨
    (nextReset s = false ∧ ∃ i, nextOp s = some i ∧ exec i (atEdge s) = .next t) := by
  unfold step nextEdge at h
  split at h
  next h0 =>
    cases h
    refine .inr (.inl ⟨by simp [nextReset, h0], by simp [nextOp, h0], .ok, ?_⟩)
    cases s; cases h0; rfl
  next c rest h0 =>
    unfold clockEdge runWord at h
    cases hr : c.rst <;> cases hv : c.cmdValid <;> simp only [hr, hv, if_true, Bool.false_eq_true, if_false] at h
    · cases h
      exact .inr (.inl ⟨by simp [nextReset, h0, hr], by simp [nextOp, h0, hv], .ok, by simp [h0, State.idle]⟩)
    · cases hd : decode c.cmdWord with
      | op i =>
        rw [hd] at h
        refine .inr (.inr ⟨by simp [nextReset, h0, hr], i, by simp [nextOp, h0, hr, hv, hd], ?_⟩)
        simpa [atEdge, nextNow, h0, State.sample] using h
      | reject why =>
        rw [hd] at h
        cases h
        exact .inr (.inl ⟨by simp [nextReset, h0, hr], by simp [nextOp, h0, hr, hv, hd], rejectStatus why,
          by simp [h0, State.reject]⟩)
    · cases h
      exact .inl ⟨by simp [nextReset, h0, hr], by simp [nextOp, h0, hr], by simp [h0]⟩
    · cases h
      exact .inl ⟨by simp [nextReset, h0, hr], by simp [nextOp, h0, hr], by simp [h0]⟩

/-- Every edge answers a next state (R6, R186). -/
theorem step_next (s : State) : ∃ t, step s = .next t := by
  unfold step nextEdge
  split
  · exact ⟨_, rfl⟩
  · unfold clockEdge runWord
    split
    · exact ⟨_, rfl⟩
    · split
      · split
        · exact exec_next _ _
        · exact ⟨_, rfl⟩
      · exact ⟨_, rfl⟩

/-- An edge takes one port cycle and leaves the configuration alone. -/
theorem step_frame {s t : State} (h : step s = .next t) : t.cfg = s.cfg ∧ t.host = s.host.tail := by
  rcases step_cases h with ⟨_, _, rfl⟩ | ⟨_, _, _, rfl⟩ | ⟨_, i, _, hx⟩
  · exact ⟨rfl, rfl⟩
  · exact ⟨rfl, rfl⟩
  · exact ⟨(exec_frame hx).1, (exec_frame hx).2.1⟩

/-- What one edge that is no reset edge does to the block's state and the event ports, operation by operation. -/
theorem step_effect {s t : State} (h : step s = .next t) (hr : nextReset s = false) :
    (nextOp s = none ∧ t.regs = s.regs ∧ t.events = .quiet) ∨
    (nextOp s = some .poll ∧ t.regs = pollRegs s.cfg (nextNow s) s.regs ∧ t.events = .quiet) ∨
    (∃ v, nextOp s = some (.setPower v) ∧ t.regs = setPowerAction v s.regs ∧ t.events = emitState v) ∨
    (∃ r g b, nextOp s = some (.setColor r g b) ∧ reportDue s.cfg (nextNow s) s.regs = true ∧
      t.regs = { manualColor (clampColor r g b) s.regs with reportLast := nextNow s } ∧
      t.events = emitColor (clampColor r g b)) ∨
    (∃ r g b, nextOp s = some (.setColor r g b) ∧ reportDue s.cfg (nextNow s) s.regs = false ∧
      t.regs = manualColor (clampColor r g b) s.regs ∧ t.events = .quiet) ∨
    (∃ x, nextOp s = some (.setBright x) ∧ t.regs = setBrightnessTarget (clamp8 x) s.regs ∧
      t.events = emitBright x) ∨
    (nextOp s = some .connect ∧ s.regs.connected = false ∧
      t.regs = { setPowerAction true s.regs with connected := true } ∧ t.events = emitState true) ∨
    (nextOp s = some .connect ∧ s.regs.connected = true ∧ t.regs = s.regs ∧ t.events = .quiet) := by
  rcases step_cases h with ⟨h1, _⟩ | ⟨_, h1, st, rfl⟩ | ⟨_, i, h1, hx⟩
  · simp [hr] at h1
  · exact .inl ⟨h1, rfl, rfl⟩
  · cases i with
    | poll => cases hx; exact .inr (.inl ⟨h1, rfl, rfl⟩)
    | setPower v => cases hx; exact .inr (.inr (.inl ⟨v, h1, rfl, rfl⟩))
    | setColor r g b =>
      cases hd : reportDue s.cfg (nextNow s) s.regs
      · rw [exec_setColor_throttled _ (by exact hd)] at hx; cases hx
        exact .inr (.inr (.inr (.inr (.inl ⟨r, g, b, h1, rfl, rfl, rfl⟩))))
      · rw [exec_setColor_reported _ (by exact hd)] at hx; cases hx
        exact .inr (.inr (.inr (.inl ⟨r, g, b, h1, rfl, rfl, rfl⟩)))
    | setBright x => cases hx; exact .inr (.inr (.inr (.inr (.inr (.inl ⟨x, h1, rfl, rfl⟩)))))
    | connect =>
      cases hd : s.regs.connected
      · rw [exec_connect_first _ (by exact hd)] at hx; cases hx
        exact .inr (.inr (.inr (.inr (.inr (.inr (.inl ⟨h1, rfl, rfl, rfl⟩))))))
      · rw [exec_connect_again _ (by exact hd)] at hx; cases hx
        exact .inr (.inr (.inr (.inr (.inr (.inr (.inr ⟨h1, rfl, rfl, rfl⟩))))))

/-- What a reset edge does. -/
theorem step_reset {s t : State} (h : step s = .next t) (hr : nextReset s = true) :
    t.regs = Regs.reset s.cfg ∧ t.events = .quiet ∧ t.now = s.now := by
  rcases step_cases h with ⟨_, _, rfl⟩ | ⟨h1, _⟩ | ⟨h1, _⟩
  · exact ⟨rfl, rfl, rfl⟩
  all_goals simp [hr] at h1

/-- An edge that executes an operation samples the presented time; any other leaves the sampled time. -/
theorem step_now {s t : State} (h : step s = .next t) :
    (nextOp s = none ∧ t.now = s.now) ∨ (nextOp s ≠ none ∧ t.now = nextNow s) := by
  rcases step_cases h with ⟨_, h1, rfl⟩ | ⟨_, h1, st, rfl⟩ | ⟨_, i, h1, hx⟩
  · exact .inl ⟨h1, rfl⟩
  · exact .inl ⟨h1, rfl⟩
  · exact .inr ⟨by simp [h1], (exec_frame hx).2.2.1⟩

theorem after_zero (s : State) : after 0 s = some s := rfl

theorem after_succ {s t : State} (h : step s = .next t) (n : Nat) : after (n + 1) s = after n t := by
  simp [after, h]

/-- A run is never cut short. -/
theorem after_some (n : Nat) (s : State) : ∃ t, after n s = some t := by
  induction n generalizing s with
  | zero => exact ⟨s, rfl⟩
  | succ n ih =>
    obtain ⟨u, hu⟩ := step_next s
    rw [after_succ hu]
    exact ih u

/-- A run of `m + n` edges is a run of `m` and then a run of `n`. -/
theorem after_add {m n : Nat} {s t : State} (h : after m s = some t) : after (m + n) s = after n t := by
  induction m generalizing s with
  | zero => cases h; rw [Nat.zero_add]
  | succ m ih =>
    obtain ⟨u, hu⟩ := step_next s
    rw [after_succ hu] at h
    rw [Nat.succ_add, after_succ hu]
    exact ih h

/-- A run of `n + 1` edges begins with one edge. -/
theorem after_succ_split {n : Nat} {s t : State} (h : after (n + 1) s = some t) :
    ∃ u, step s = .next u ∧ after n u = some t := by
  obtain ⟨u, hu⟩ := step_next s
  exact ⟨u, hu, by rwa [after_succ hu] at h⟩

theorem everyEdge_succ {p : State → Prop} {n : Nat} {s u : State} (h : everyEdge p (n + 1) s)
    (hu : step s = .next u) : p s ∧ everyEdge p n u :=
  ⟨h 0 s (by omega) rfl, fun k v hk hv => h (k + 1) v (by omega) (by rw [after_succ hu]; exact hv)⟩

theorem countEdges_succ {p : State → Bool} {n : Nat} {s u : State} (hu : step s = .next u) :
    countEdges p (n + 1) s = (if p s then 1 else 0) + countEdges p n u := by
  simp [countEdges, hu]

/-- Under the host's clock duty an edge with an operation sees the true time of that edge, modulo `2^TW`. -/
theorem nextNow_of_clockDuty {τ : Nat → Nat} {s : State} (hc : ClockDuty τ s) (h : nextOp s ≠ none) :
    nextNow s = τ 0 % 2 ^ s.cfg.tw := by
  unfold nextOp at h
  unfold nextNow
  cases hh : s.host with
  | nil => simp [hh] at h
  | cons c rest =>
    simp only [hh, ne_eq, ite_eq_right_iff, not_forall, Bool.and_eq_true, Bool.not_eq_true'] at h
    obtain ⟨⟨hr, hv⟩, _⟩ := h
    simp only [sampleTime]
    rw [hc.2 0 c (by simp [hh]) hr hv]
    simp

/-- The clock duty passes to the state after an edge. -/
theorem clockDuty_step {τ : Nat → Nat} {s u : State} (hc : ClockDuty τ s) (hu : step s = .next u) :
    ClockDuty (fun k => τ (k + 1)) u := by
  obtain ⟨h1, h2⟩ := step_frame hu
  refine ⟨fun i j hij => hc.1 _ _ (by omega), fun k c h hr hv => ?_⟩
  rw [h1]
  refine hc.2 (k + 1) c ?_ hr hv
  rw [h2] at h
  simpa using h

end Sys2Proof.Machine
end

