-- ==== Sys2Proof/Tests/Slice0.lean ====
section
/-! SUPPORT. The model's own tests: the WellFormed smoke, words and single steps whose expected results are the vectors of
spec/95_test_vectors.md (their ids in the comments), and for every obligation with hypotheses a witness that meets them. -/

namespace Sys2Proof.Tests

open Sys2Proof Sys2Proof.Machine

/-! ### Helpers -/

/-- The state after the next edge. -/
def nextOf (s : State) : State :=
  match step s with
  | .next t => t
  | .fault _ => s
  | .refused _ => s

theorem step_nextOf (s : State) : step s = .next (nextOf s) := by
  obtain ⟨t, h⟩ := step_next s
  simp [nextOf, h]

/-- The state after an operation. -/
def ran (i : Instr) (s : State) : State :=
  match exec i s with
  | .next t => t
  | .fault _ => s
  | .refused _ => s

theorem exec_ran (i : Instr) (s : State) : exec i s = .next (ran i s) := by
  obtain ⟨t, h⟩ := exec_next i s
  simp [ran, h]

/-- The state after `n` edges. -/
def run : Nat → State → State
  | 0, s => s
  | n + 1, s => run n (nextOf s)

theorem after_run (n : Nat) (s : State) : after n s = some (run n s) := by
  induction n generalizing s with
  | zero => rfl
  | succ n ih => rw [after_succ (step_nextOf s), ih, run]

/-- A check of every edge of a run. -/
def checkEdges (p : State → Bool) : Nat → State → Bool
  | 0, _ => true
  | n + 1, s => p s && checkEdges p n (nextOf s)

theorem everyEdge_of_check {p : State → Bool} {q : State → Prop} (hp : ∀ u, p u = true → q u) {n : Nat} {s : State}
    (h : checkEdges p n s = true) : everyEdge q n s := by
  induction n generalizing s with
  | zero => intro k u hk _; omega
  | succ n ih =>
    rw [checkEdges, Bool.and_eq_true] at h
    intro k u hk hu
    cases k with
    | zero => rw [after_zero] at hu; cases hu; exact hp _ h.1
    | succ k => rw [after_succ (step_nextOf s)] at hu; exact ih h.2 k u (by omega) hu

/-- No reset at this edge. -/
def quietEdge (s : State) : Bool := !nextReset s

theorem noReset_of_check {n : Nat} {s : State} (h : checkEdges quietEdge n s = true) :
    everyEdge (fun u => nextReset u = false) n s :=
  everyEdge_of_check (fun u hu => by simpa [quietEdge] using hu) h

/-- A machine under `cfg` with block state `r`, to which the host presents the words of `trace`, each at its time. -/
def fed (cfg : Config) (r : Regs) (trace : List (Nat × Word)) : State where
  cfg := cfg
  regs := r
  now := 0
  host := trace.map fun p => ⟨false, true, p.2, p.1⟩
  status := .ok
  events := .quiet

/-- The same machine at the moment it executes an operation at time `t`. -/
def at' (cfg : Config) (r : Regs) (t : Nat) : State := { fed cfg r [] with now := t }

/-- The reset state of CFG_REF (the block's part). -/
def ref0 : Regs := Regs.reset Config.ref

/-- The reset state of CFG_SMALL (the block's part). -/
def small0 : Regs := Regs.reset Config.small

/-- The start state of program P2 of spec/95: manual mode, the light on. -/
def manual : Regs :=
  { small0 with cur := ⟨200, 100, 50⟩, tgt := ⟨200, 100, 50⟩, auto := false, cursor := 1, cycleLast := 0, reportLast := 0,
                connected := true, out := ⟨629, 157, 39⟩ }

/-- The light off. -/
def off : Regs := { manual with power := false, tgt := ⟨0, 100, 255⟩ }

/-- The configuration of CY6: one palette entry, `CYCLE_TOTAL` 100, here in 16 bits. -/
def oneEntry : Config := { Config.small with palette := [⟨9, 8, 7⟩], cycleTotal := 100 }

/-! ### WellFormed: each check refuses an ill-formed term -/

theorem smoke_tw : ¬ ({ Config.small with tw := 0 } : Config).WF := fun h => absurd h.1 (by decide)
theorem smoke_rampInterval : ¬ ({ Config.small with rampInterval := 65536 } : Config).WF := fun h => absurd h.1 (by decide)
theorem smoke_cycleTotal : ¬ ({ Config.small with cycleTotal := 65536 } : Config).WF := fun h => absurd h.1 (by decide)
theorem smoke_reportInterval : ¬ ({ Config.small with reportInterval := 65536 } : Config).WF :=
  fun h => absurd h.1 (by decide)
theorem smoke_palette_empty : ¬ ({ Config.small with palette := [] } : Config).WF := fun h => absurd h.2.1 (by decide)
theorem smoke_pwmBits : ¬ ({ Config.small with pwmBits := 0 } : Config).WF := fun h => absurd h.2.2.1 (by decide)
theorem smoke_pwmMax_zero : ¬ ({ Config.small with pwmMax := 0 } : Config).WF := fun h => absurd h.2.2.1 (by decide)
theorem smoke_pwmMax_wide : ¬ ({ Config.small with pwmMax := 1024 } : Config).WF := fun h => absurd h.2.2.1 (by decide)
theorem smoke_gamma_entry : ¬ ({ Config.small with gamma := Config.gammaRef.set 255 1024 } : Config).WF :=
  fun h => absurd (h.2.2.2.1 255) (by decide)
theorem smoke_gamma_order : ¬ ({ Config.small with gamma := Config.gammaRef.set 200 0 } : Config).WF :=
  fun h => absurd (h.2.2.2.2 199) (by decide)
theorem smoke_setPower : (AsmOp.setPower (.num 2)).wf = false ∧ (AsmOp.setPower (.num 1)).wf = true := by decide
theorem smoke_setColor : (AsmOp.setColor 65536 0 0).wf = false ∧ (AsmOp.setColor 0 65536 0).wf = false ∧
    (AsmOp.setColor 0 0 65536).wf = false ∧ (AsmOp.setColor 65535 65535 65535).wf = true := by decide
theorem smoke_setBright : (AsmOp.setBright 65536).wf = false ∧ (AsmOp.setBright 65535).wf = true := by decide
theorem smoke_trace_time : TraceLine.wf Config.small ⟨65536, .poll⟩ = false ∧
    TraceLine.wf Config.small ⟨65535, .poll⟩ = true ∧ TraceLine.wf Config.small ⟨0, .setBright 65536⟩ = false := by decide

/-! ### Decoding (DE1 to DE20) -/

theorem test_decode_poll : decode 0x0000000000000000 = .op .poll := by decide
theorem test_decode_setPower : decode 0x0100000100000000 = .op (.setPower true) ∧
    decode 0x0100000000000000 = .op (.setPower false) := by decide
theorem test_decode_setColor : decode 0x0200000A0014001E = .op (.setColor 10 20 30) ∧
    decode 0x0200012C010000FF = .op (.setColor 300 256 255) ∧
    decode 0x0200FFFFFFFFFFFF = .op (.setColor 65535 65535 65535) := by decide
theorem test_decode_setBright : decode 0x0300008000000000 = .op (.setBright 128) ∧
    decode 0x030003E800000000 = .op (.setBright 1000) := by decide
theorem test_decode_connect : decode 0x0400000000000000 = .op .connect := by decide
theorem test_decode_illegal : decode 0x0500000000000000 = .reject .illegalOpcode ∧
    decode 0xFF01000000000000 = .reject .illegalOpcode := by decide
theorem test_decode_reserved :
    ([0x0000000000000001, 0x0001000000000000, 0x0100000200000000, 0x0100000300000000, 0x0100000100010000,
      0x0201000000000000, 0x0300000000010000, 0x0300008000000001, 0x0400000100000000] : List Word).all
      (fun w => decode w == .reject .reservedNonzero) = true := by decide
theorem test_encode : encode (.setPower true) = 0x0100000100000000 ∧ encode (.setColor 10 20 30) = 0x0200000A0014001E ∧
    encode (.setBright 128) = 0x0300008000000000 := by decide

/-- The examples of R75, R76 and R77 as text; a hexadecimal operand; an operand out of range; a missing comma. -/
theorem test_assemble_text :
    assembleText "SETPOWER ON".toList = some 0x0100000100000000 ∧
    assembleText "SETCOLOR 10, 20, 30".toList = some 0x0200000A0014001E ∧
    assembleText "SETCOLOR 0xa,0x14 , 0x1E".toList = some 0x0200000A0014001E ∧
    assembleText "SETBRIGHT 128".toList = some 0x0300008000000000 ∧
    assembleText "SETBRIGHT 65536".toList = none ∧ assembleText "SETPOWER 2".toList = none ∧
    assembleText "SETCOLOR 1, 2 3".toList = none ∧ assembleText "READ".toList = none := by decide

/-- `@1000 SETCOLOR 10, 20, 30` of scenario E3. -/
theorem test_trace_text :
    readTraceLine "@1000  SETCOLOR 10, 20, 30".toList = some ⟨1000, .setColor 10 20 30⟩ ∧
    readTraceLine "@0x10 POLL".toList = none ∧ readTraceLine "POLL".toList = none := by decide

/-! ### Tables (the listing of R53) and the internal procedures (ST7, ST8, RT4, RT5, OD2, OD9, CY4, CY6) -/

/-- Row `k` of the listing: entries `16 k` to `16 k + 15`. -/
def gammaRow (k : Nat) : List Nat := (List.range 16).map fun j => gammaRead Config.ref (BitVec.ofNat 8 (16 * k + j))

theorem test_gamma_listing_low : (List.range 8).map (fun k => gammaRow (k + 0)) =
    [[0, 0, 0, 0, 0, 0, 0, 0, 1, 1, 1, 1, 2, 2, 3, 3],
     [4, 4, 5, 5, 6, 6, 7, 8, 9, 9, 10, 11, 12, 13, 14, 15],
     [16, 17, 18, 19, 20, 21, 22, 23, 25, 26, 27, 29, 30, 31, 33, 34],
     [36, 37, 39, 40, 42, 44, 45, 47, 49, 51, 52, 54, 56, 58, 60, 62],
     [64, 66, 68, 70, 72, 74, 77, 79, 81, 83, 86, 88, 90, 93, 95, 98],
     [100, 103, 105, 108, 111, 113, 116, 119, 121, 124, 127, 130, 133, 136, 139, 141],
     [144, 148, 151, 154, 157, 160, 163, 166, 170, 173, 176, 180, 183, 186, 190, 193],
     [197, 200, 204, 208, 211, 215, 219, 222, 226, 230, 234, 238, 241, 245, 249, 253]] := by decide

theorem test_gamma_listing_high : (List.range 8).map (fun k => gammaRow (k + 8)) =
    [[257, 261, 265, 269, 274, 278, 282, 286, 290, 295, 299, 303, 308, 312, 317, 321],
     [326, 330, 335, 339, 344, 349, 353, 358, 363, 368, 373, 377, 382, 387, 392, 397],
     [402, 407, 412, 417, 423, 428, 433, 438, 444, 449, 454, 460, 465, 470, 476, 481],
     [487, 492, 498, 504, 509, 515, 521, 526, 532, 538, 544, 550, 556, 561, 567, 573],
     [579, 586, 592, 598, 604, 610, 616, 623, 629, 635, 641, 648, 654, 661, 667, 674],
     [680, 687, 693, 700, 707, 713, 720, 727, 734, 740, 747, 754, 761, 768, 775, 782],
     [789, 796, 803, 810, 817, 825, 832, 839, 846, 854, 861, 868, 876, 883, 891, 898],
     [906, 913, 921, 928, 936, 944, 952, 959, 967, 975, 983, 991, 999, 1007, 1014, 1023]] := by decide

theorem test_step1_edges : step1 254 255 = 255 ∧ step1 255 255 = 255 ∧ step1 1 0 = 0 ∧ step1 0 0 = 0 := by decide

theorem test_ramp_wrap : rampDue Config.ref 0xF3 { ref0 with rampLast := 0xFFFFFF00 } = false ∧
    rampDue Config.ref 0xF4 { ref0 with rampLast := 0xFFFFFF00 } = true := by decide

theorem test_output_levels :
    (outputDriver Config.ref { ref0 with cur := ⟨255, 128, 0⟩, bright := 128 }).out = ⟨513, 129, 0⟩ ∧
    (outputDriver Config.ref { ref0 with cur := ⟨201, 101, 50⟩, bright := 128 }).out = ⟨318, 80, 19⟩ := by decide

theorem test_cycle_wrap :
    cycleTick Config.ref 40001400 { ref0 with cursor := 2, cycleLast := 1000 } =
      { ref0 with tgt := ⟨0, 0, 255⟩, cursor := 0, cycleLast := 40001400 } ∧
    cycleTick oneEntry 0 (Regs.reset oneEntry) =
      { Regs.reset oneEntry with tgt := ⟨9, 8, 7⟩, cursor := 0, cycleLast := 0 } := by decide

/-! ### One step of each operation -/

/-- PO1: both timers fire, and the ramp step uses the target stored in the same POLL. -/
theorem test_poll_both :
    (nextOf (fed Config.ref { ref0 with cur := ⟨10, 10, 10⟩, tgt := ⟨10, 10, 10⟩, cursor := 2, cycleLast := 1000,
                                        rampLast := 40000900 } [(40001400, 0)])).regs =
      { ref0 with tgt := ⟨0, 0, 255⟩, cursor := 0, cycleLast := 40001400, cur := ⟨9, 9, 11⟩, rampLast := 40001400,
                  out := ⟨1, 1, 1⟩ } := by decide

/-- PO3: the ramp runs while the light is off, and the outputs go to 0. -/
theorem test_poll_off :
    (nextOf (fed Config.ref { ref0 with power := false, auto := false, cur := ⟨200, 100, 50⟩, tgt := ⟨0, 100, 255⟩,
                                        out := ⟨629, 157, 39⟩ } [(600, 0)])).regs =
      { ref0 with power := false, auto := false, cur := ⟨199, 100, 51⟩, tgt := ⟨0, 100, 255⟩, rampLast := 600 } := by
  decide

/-- PW3 and PW4. -/
theorem test_setPower_toggle :
    (ran (.setPower false) (at' Config.ref ref0 0)).regs = { ref0 with power := false, auto := false } ∧
    (ran (.setPower true) (at' Config.ref { ref0 with power := false, auto := false } 0)).regs = ref0 := by decide

/-- PW2: no change of value, so manual mode stays; the event is emitted all the same. -/
theorem test_setPower_same :
    (nextOf (fed Config.ref { ref0 with auto := false } [(0, 0x0100000100000000)])).regs = { ref0 with auto := false } ∧
    (nextOf (fed Config.ref { ref0 with auto := false } [(0, 0x0100000100000000)])).events.state = some true := by decide

/-- CO3b and CO7: the clamp, and a report across a clock wrap. -/
theorem test_setColor_reported :
    (nextOf (fed Config.ref { ref0 with reportLast := 0xFFFFFF00 } [(0x004C4A40, 0x0200012C010000FF)])).regs =
      { ref0 with auto := false, tgt := ⟨255, 255, 255⟩, reportLast := 0x004C4A40 } ∧
    portEvtColor (nextOf (fed Config.ref { ref0 with reportLast := 0xFFFFFF00 } [(0x004C4A40, 0x0200012C010000FF)])) =
      some 0xFFFFFF := by decide

/-- CO6: one unit earlier the report is dropped, the state is written. -/
theorem test_setColor_throttled :
    (nextOf (fed Config.ref { ref0 with reportLast := 0xFFFFFF00 } [(0x004C4A3F, 0x0200000A0014001E)])).regs =
      { ref0 with auto := false, tgt := ⟨10, 20, 30⟩, reportLast := 0xFFFFFF00 } ∧
    (nextOf (fed Config.ref { ref0 with reportLast := 0xFFFFFF00 } [(0x004C4A3F, 0x0200000A0014001E)])).events = .quiet := by
  decide

/-- BR4 and BR5. -/
theorem test_setBright_clamp :
    (nextOf (fed Config.ref { ref0 with bright := 7 } [(0, 0x0300010000000000)])).regs.bright = 255 ∧
    portEvtBright (nextOf (fed Config.ref ref0 [(0, 0x030003E800000000)])) = some 1000 := by decide

/-- BR8: no flag moves. -/
theorem test_setBright_off : (nextOf (fed Config.small off [(0, 0x0300008000000000)])).regs = { off with bright := 128 } := by
  decide

/-- CN3 and CN5. -/
theorem test_connect_off :
    (nextOf (fed Config.small { off with connected := false } [(0, 0x0400000000000000)])).regs =
      { off with connected := true, power := true, auto := true } ∧
    (nextOf (fed Config.small off [(0, 0x0400000000000000)])).regs = off := by decide

/-- CN1 and CN4: the events. -/
theorem test_connect_event :
    (nextOf (fed Config.small small0 [(0, 0x0400000000000000)])).events.state = some true ∧
    (nextOf (fed Config.small manual [(0, 0x0400000000000000)])).events = .quiet := by decide

/-- P3, `@65531` and `@65534`: a rejected word shows in the status alone. -/
theorem test_reject : portStatus (nextOf (fed Config.small small0 [(65531, 0x0500000000000000)])) = 1 ∧
    portStatus (nextOf (fed Config.small small0 [(65532, 0x0100000200000000)])) = 2 ∧
    (nextOf (fed Config.small small0 [(65533, 0x0000000000000001)])).regs = small0 := by decide


/-! ### Witnesses: for each obligation with hypotheses, states and operands that meet them

A hypothesis `step s = .next t` or `exec i s = .next t` or `after n s = some t` is met by every state, with `t` the state
`nextOf s`, `ran i s` or `run n s`; where only such a hypothesis stands, one state is shown. -/

theorem witness_AcceptedWordIsItsEncoding : decode 0x0200FFFFFFFFFFFF = .op (.setColor 65535 65535 65535) := by decide

/-- The lowest and the highest bit of `A[15:1]`. -/
theorem witness_RowsByMatchAndMask :
    (opcodeOf 0x0100000200000000 = 1 ∧ (0x0100000200000000 : Word).extractLsb' 33 15 ≠ 0) ∧
    (opcodeOf 0x0100800000000000 = 1 ∧ (0x0100800000000000 : Word).extractLsb' 33 15 ≠ 0) := by decide

/-- The opcode on both sides of its limit; a reserved byte with each value of the opcode's limits; each assigned opcode. -/
theorem witness_DecodeProcedureCaseByCase :
    let op := fun w : Word => w.toNat / 2 ^ 56
    let res := fun w : Word => w.toNat / 2 ^ 48 % 2 ^ 8
    4 < op 0x0500000000000000 ∧ 4 < op 0xFFFFFFFFFFFFFFFF ∧
    (op 0x0001000000000000 ≤ 4 ∧ res 0x0001000000000000 ≠ 0) ∧ (op 0x04FF000000000000 ≤ 4 ∧ res 0x04FF000000000000 ≠ 0) ∧
    (op 0x0000FFFFFFFFFFFF = 0 ∧ res 0x0000FFFFFFFFFFFF = 0) ∧ (op 0x0100000100000000 = 1 ∧ res 0x0100000100000000 = 0) ∧
    (op 0x0200FFFFFFFFFFFF = 2 ∧ res 0x0200FFFFFFFFFFFF = 0) ∧ (op 0x0300FFFF00000000 = 3 ∧ res 0x0300FFFF00000000 = 0) ∧
    (op 0x0400000000000000 = 4 ∧ res 0x0400000000000000 = 0) := by decide

theorem witness_OperandsSaturate :
    exec (.setColor 256 255 65535) (at' Config.small manual 0) =
      .next (ran (.setColor 256 255 65535) (at' Config.small manual 0)) ∧
    exec (.setBright 256) (at' Config.small manual 0) = .next (ran (.setBright 256) (at' Config.small manual 0)) ∧
    exec (.setPower false) (at' Config.small manual 0) = .next (ran (.setPower false) (at' Config.small manual 0)) :=
  ⟨exec_ran _ _, exec_ran _ _, exec_ran _ _⟩

theorem witness_StepRunsDecodedOperation : decode 0x0400000000000000 = .op .connect ∧
    decode 0x0500000000000000 = .reject .illegalOpcode ∧ decode 0x0000000000000001 = .reject .reservedNonzero := by decide

theorem witness_RejectedWordChangesNothing :
    4 < opcodeOf 0x0500000000000000 ∧
    (opcodeOf 0x0400000000000001 ≤ 4 ∧ 0x0400000000000001 &&& mustBeZero (opcodeOf 0x0400000000000001) ≠ 0) ∧
    (opcodeOf 0x0400000000000000 ≤ 4 ∧ 0x0400000000000000 &&& mustBeZero (opcodeOf 0x0400000000000000) = 0) := by decide

theorem witness_StatusCodesReported :
    let s := at' Config.small manual 0
    (step (s.present 0x0500000000000000 7) = .next (nextOf (s.present 0x0500000000000000 7)) ∧
      portStatus (nextOf (s.present 0x0500000000000000 7)) ≠ 0) ∧
    step (s.present 0x0001000000000000 7) = .next (nextOf (s.present 0x0001000000000000 7)) :=
  ⟨⟨step_nextOf _, by decide⟩, step_nextOf _⟩

/-- Each timer one unit before its interval; the startup guard set. -/
theorem witness_AcceptedThoughNothingToReport :
    reportDue Config.small 49 manual = false ∧ manual.connected = true ∧
    (rampDue Config.small 39 { manual with rampLast := 35 } = false ∧
      cycleDue Config.small 39 { manual with rampLast := 35 } = false) := by decide

theorem witness_SetPowerResult :
    (opcodeOf 0x0100000300000000 = 1 ∧ (0x0100000300000000 : Word) &&& 0x00FFFFFEFFFFFFFF ≠ 0) ∧
    exec (.setPower true) (at' Config.small off 0) = .next (ran (.setPower true) (at' Config.small off 0)) ∧
    exec (.setPower true) (ran (.setPower true) (at' Config.small off 0)) =
      .next (ran (.setPower true) (ran (.setPower true) (at' Config.small off 0))) :=
  ⟨by decide, exec_ran _ _, exec_ran _ _⟩

/-- At the report interval and one unit before it, across a clock wrap. -/
theorem witness_SetColorResult :
    (⟨255, 255, 0⟩ : Rgb Byte) = ⟨BitVec.ofNat 8 (min (300 : Half).toNat 255), BitVec.ofNat 8 (min (255 : Half).toNat 255),
      BitVec.ofNat 8 (min (0 : Half).toNat 255)⟩ ∧
    (50 : Int) ≤ ((10 : Int) - 65496) % 2 ^ 16 ∧ ((9 : Int) - 65496) % 2 ^ 16 < 50 ∧
    (opcodeOf 0x0280000000000000 = 2 ∧ (0x0280000000000000 : Word) &&& 0x00FF000000000000 ≠ 0) := by decide

theorem witness_SetBrightResult :
    let s := at' Config.small manual 0
    (opcodeOf 0x0300000000000001 = 3 ∧ (0x0300000000000001 : Word) &&& 0x00FF0000FFFFFFFF ≠ 0) ∧
    exec (.setBright 0) s = .next (ran (.setBright 0) s) ∧
    rampDue (ran (.setBright 0) s).cfg 5 (ran (.setBright 0) s).regs = true ∧
    exec .poll { ran (.setBright 0) s with now := 5 } = .next (ran .poll { ran (.setBright 0) s with now := 5 }) :=
  ⟨by decide, exec_ran _ _, by decide, exec_ran _ _⟩

/-- The last clause, its ramp timer exactly at the interval. -/
theorem witness_SetBrightResult_fullWhite :
    let s := at' Config.ref { manual with cur := ⟨255, 255, 255⟩, tgt := ⟨255, 255, 255⟩ } 0
    let t := ran (.setBright 128) s
    s.cfg = Config.ref ∧ s.regs.power = true ∧ s.regs.auto = false ∧ s.regs.cur = ⟨255, 255, 255⟩ ∧
    s.regs.tgt = ⟨255, 255, 255⟩ ∧ exec (.setBright 128) s = .next t ∧ rampDue t.cfg 500 t.regs = true ∧
    exec .poll { t with now := 500 } = .next (ran .poll { t with now := 500 }) :=
  ⟨rfl, rfl, rfl, rfl, rfl, exec_ran _ _, by decide, exec_ran _ _⟩

theorem witness_ConnectResult : small0.connected = false ∧ manual.connected = true ∧
    (opcodeOf 0x0480000000000000 = 4 ∧ (0x0480000000000000 : Word) &&& 0x00FFFFFFFFFFFFFF ≠ 0) := by decide

/-- Neither timer fires (each one unit early); both fire at their intervals; the light is off and the ramp fires. -/
theorem witness_PollResult :
    (rampDue Config.small 39 { small0 with cycleLast := 0, rampLast := 35 } = false ∧
      cycleDue Config.small 39 { small0 with cycleLast := 0, rampLast := 35 } = false) ∧
    (small0.auto = true ∧ Config.small.palette[small0.cursor]? = some ⟨255, 0, 0⟩ ∧
      cycleDue Config.small 40 { small0 with cycleLast := 0, rampLast := 35 } = true ∧
      rampDue Config.small 40 { small0 with cycleLast := 0, rampLast := 35 } = true) ∧
    (off.power = false ∧ off.auto = false ∧ rampDue Config.small 5 off = true) ∧
    (opcodeOf 0x0080000000000000 = 0 ∧ (0x0080000000000000 : Word) &&& 0x00FFFFFFFFFFFFFF ≠ 0) := by decide

/-- Up to 255, down to 0, and at the target. -/
theorem witness_UnitStepNeverOvershoots :
    (254 : Byte).toNat < (255 : Byte).toNat ∧ (0 : Byte).toNat < (1 : Byte).toNat ∧ (255 : Byte) = 255 := by decide

theorem witness_RampTickResult :
    (Config.small.rampInterval : Int) ≤ ((5 : Int) - manual.rampLast) % 2 ^ Config.small.tw ∧
    ((4 : Int) - manual.rampLast) % 2 ^ Config.small.tw < Config.small.rampInterval := by decide

/-- Two states that agree on the red lane only. -/
theorem witness_LanesStepIndependently :
    manual.rampLast = small0.rampLast ∧
    ({ manual with cur := ⟨7, 0, 0⟩, tgt := ⟨9, 1, 1⟩ } : Regs).cur.get .red = ({ small0 with cur := ⟨7, 5, 5⟩ } : Regs).cur.get .red ∧
    ({ manual with cur := ⟨7, 0, 0⟩, tgt := ⟨9, 1, 1⟩ } : Regs).tgt.get .red = ({ small0 with tgt := ⟨9, 8, 8⟩ } : Regs).tgt.get .red := by
  decide

theorem witness_RampRunsWhileOff : rampDue Config.small 5 manual = true := by decide

theorem witness_RedirectionIsContinuous :
    let s := at' Config.small manual 0
    exec (.setColor 10 20 300) s = .next (ran (.setColor 10 20 300) s) ∧
    rampDue (ran (.setColor 10 20 300) s).cfg 5 (ran (.setColor 10 20 300) s).regs = true :=
  ⟨exec_ran _ _, by decide⟩

theorem witness_OutputLevelContract :
    (manual.cur = { off with cur := manual.cur }.cur ∧ manual.bright = off.bright ∧
      manual.power = { off with power := true }.power) ∧
    off.power = false ∧ ({ manual with bright := 0 } : Regs).bright = 0 ∧
    (manual.power = true ∧ manual.bright = 255) ∧
    (({ manual with bright := 1 } : Regs).power = true ∧ ({ manual with bright := 1 } : Regs).bright = 1) ∧
    Config.small.WF :=
  ⟨by decide, by decide, by decide, by decide, by decide, Config.small_wf⟩

theorem witness_OutputLevelInRangeAndMonotone :
    Config.small.WF ∧ (0 : Byte).toNat ≤ (255 : Byte).toNat ∧ manual.bright.toNat ≤ (255 : Byte).toNat :=
  ⟨Config.small_wf, by decide, by decide⟩

theorem witness_GammaLookupContract :
    Config.ref.WF ∧ (0 : Byte).toNat ≤ (255 : Byte).toNat ∧ (7 : Byte).toNat ≤ 7 ∧
    ({ ref0 with cur := ⟨255, 128, 0⟩ } : Regs).cur = ⟨255, 128, 0⟩ :=
  ⟨Config.ref_wf, by decide, by decide, by decide⟩

/-- A POLL at the ramp interval, and one a unit before it. -/
theorem witness_OutputsWrittenOnlyByFiringRamp :
    let s := fed Config.small manual [(5, 0)]
    let s' := fed Config.small manual [(4, 0)]
    (step s = .next (nextOf s) ∧ nextReset s = false ∧ nextRampFires s = true) ∧
    (step s' = .next (nextOf s') ∧ nextReset s' = false ∧ nextRampFires s' = false) :=
  ⟨⟨step_nextOf _, by decide, by decide⟩, step_nextOf _, by decide, by decide⟩

/-- SETBRIGHT, SETPOWER, CONNECT and a POLL one unit early; then the very next POLL that fires. -/
theorem witness_OutputsLagUntilNextFiring :
    let s := fed Config.small manual [(1, 0x0300008000000000), (2, 0x0100000000000000), (3, 0x0400000000000000), (4, 0)]
    let t := ran (.setPower false) (at' Config.small manual 0)
    (after 4 s = some (run 4 s) ∧ everyEdge (fun u => nextReset u = false) 4 s ∧ countEdges nextRampFires 4 s = 0) ∧
    Instr.connect ≠ .poll ∧
    (exec (.setPower false) (at' Config.small manual 0) = .next t ∧
      rampDue t.cfg (5 % 2 ^ t.cfg.tw) t.regs = true ∧ step (t.present 0 5) = .next (nextOf (t.present 0 5))) :=
  ⟨⟨after_run _ _, noReset_of_check (by decide), by decide⟩, by decide, exec_ran _ _, by decide, step_nextOf _⟩

theorem witness_CurrentValuesMoveByOneUnit :
    let s := fed Config.small off [(60000, 0)]
    let s' := fed Config.small off [(60000, 0x0400000000000000)]
    (step s = .next (nextOf s) ∧ nextReset s = false ∧ nextRampFires s = true) ∧
    (step s' = .next (nextOf s') ∧ nextReset s' = false ∧ nextRampFires s' = false) :=
  ⟨⟨step_nextOf _, by decide, by decide⟩, step_nextOf _, by decide, by decide⟩

/-- CFG_SMALL with a ramp interval of 0: every POLL fires the ramp. -/
def always : Config := { Config.small with rampInterval := 0 }

/-- `n` POLLs with the targets held. -/
def polls (n : Nat) (r : Regs) : State := fed always { r with auto := false } (List.replicate n (0, 0))

theorem nextOf_polls (n : Nat) (r : Regs) : ∃ r' : Regs, r'.tgt = r.tgt ∧ nextOf (polls (n + 1) r) = polls n r' ∧
    nextRampFires (polls (n + 1) r) = true ∧ nextReset (polls (n + 1) r) = false :=
  ⟨rampFire always 0 { r with auto := false }, rfl, rfl, rfl, rfl⟩

theorem polls_run (n : Nat) (r : Regs) : countEdges nextRampFires n (polls n r) = n ∧
    everyEdge (fun u => nextReset u = false) n (polls n r) ∧
    ∀ k u, k ≤ n → after k (polls n r) = some u → u.regs.tgt = r.tgt := by
  induction n generalizing r with
  | zero =>
    refine ⟨rfl, fun k u hk _ => by omega, fun k u hk hu => ?_⟩
    obtain rfl : k = 0 := by omega
    cases hu; rfl
  | succ n ih =>
    obtain ⟨r', ht, hn, hf, hr⟩ := nextOf_polls n r
    obtain ⟨i1, i2, i3⟩ := ih r'
    have hs := step_nextOf (polls (n + 1) r)
    rw [hn] at hs
    refine ⟨by rw [countEdges_succ hs, hf, i1]; simp; omega, ?_, ?_⟩
    · intro k u hk hu
      cases k with
      | zero => cases hu; exact hr
      | succ k => rw [after_succ hs] at hu; exact i2 k u (by omega) hu
    · intro k u hk hu
      cases k with
      | zero => cases hu; rfl
      | succ k => rw [after_succ hs] at hu; rw [i3 k u (by omega) hu, ht]

/-- 255 firings from (0, 0, 0) toward (255, 255, 255): the longest ramp. -/
theorem witness_RampConverges : after 255 (polls 255 small0) = some (run 255 (polls 255 small0)) ∧
    everyEdge (fun u => nextReset u = false) 255 (polls 255 small0) ∧
    (∀ k u, k ≤ 255 → after k (polls 255 small0) = some u → u.regs.tgt = (polls 255 small0).regs.tgt) ∧
    255 ≤ countEdges nextRampFires 255 (polls 255 small0) :=
  ⟨after_run _ _, (polls_run 255 small0).2.1, (polls_run 255 small0).2.2, (polls_run 255 small0).1.ge⟩

/-- A clock of five units an edge that wraps between the second edge and the third. -/
def wrapClock (k : Nat) : Nat := 65530 + 5 * k

theorem clockDuty_of_check {s : State} (htw : s.cfg.tw = 16)
    (h : s.host.zipIdx.all (fun p => p.1.rst || !p.1.cmdValid || p.1.now == wrapClock p.2 % 2 ^ 16) = true) :
    ClockDuty wrapClock s := by
  refine ⟨fun i j hij => by unfold wrapClock; omega, fun k c hc hr hv => ?_⟩
  have := List.all_eq_true.mp h (c, k) (List.mem_zipIdx_iff_getElem?.mpr hc)
  simpa [hr, hv, htw] using this

/-- A POLL, an idle cycle whose `now` port shows something else, and a POLL after the wrap. -/
theorem witness_RampRateBoundedInTrueTime :
    let s : State := { fed Config.small off [] with
      host := [⟨false, true, 0, 65530⟩, ⟨false, false, 0, 7⟩, ⟨false, true, 0, 4⟩] }
    ClockDuty wrapClock s ∧ after 3 s = some (run 3 s) ∧ everyEdge (fun u => nextReset u = false) 3 s :=
  ⟨clockDuty_of_check rfl (by decide), after_run _ _, noReset_of_check (by decide)⟩

/-- At the cycle interval, at the last palette entry, and one unit before. -/
theorem witness_CycleTickResult :
    let r : Regs := { small0 with cursor := 2, cycleLast := 0 }
    let s := fed Config.small r [(40, 0)]
    Config.small.palette[r.cursor]? = some ⟨0, 0, 255⟩ ∧
    (Config.small.cycleInterval : Int) ≤ ((40 : Int) - r.cycleLast) % 2 ^ Config.small.tw ∧
    ((39 : Int) - r.cycleLast) % 2 ^ Config.small.tw < Config.small.cycleInterval ∧
    (step s = .next (nextOf s) ∧ nextReset s = false ∧ (nextOf s).regs.cycleLast ≠ s.regs.cycleLast) :=
  ⟨by decide, by decide, by decide, step_nextOf _, by decide, by decide⟩

theorem witness_CursorAdvancesByOneAndWraps :
    let s := fed Config.small { small0 with cursor := 2 } [(0, 0)]
    1 + 1 < Config.small.palLen ∧ 2 + 1 = Config.small.palLen ∧
    (oneEntry.palette = [⟨9, 8, 7⟩] ∧ (Regs.reset oneEntry).cursor = 0 ∧ cycleDue oneEntry 0 (Regs.reset oneEntry) = true) ∧
    (step s = .next (nextOf s) ∧ nextReset s = false ∧ s.regs.cursor < s.cfg.palLen) :=
  ⟨by decide, by decide, by decide, step_nextOf _, by decide, by decide⟩

theorem witness_AutoTickGatedByPoll :
    let s := at' Config.small manual 40
    let s' := at' Config.small { small0 with cycleLast := 0 } 40
    let u := fed Config.small small0 [(0, 0)]
    (s.regs.auto = false ∧ exec .poll s = .next (ran .poll s)) ∧
    (s'.regs.auto = true ∧ exec .poll s' = .next (ran .poll s')) ∧
    (step u = .next (nextOf u) ∧ nextReset u = false ∧ (nextOf u).regs.cycleLast ≠ u.regs.cycleLast) :=
  ⟨⟨by decide, exec_ran _ _⟩, ⟨by decide, exec_ran _ _⟩, step_nextOf _, by decide, by decide⟩

theorem small_inv (host : List HostCycle) : ({ State.resetFor Config.small with host := host } : State).Inv :=
  ⟨Config.small_wf, Regs.reset_inv Config.small_wf, Nat.two_pow_pos _⟩

/-- Four firings, with an idle time between, from reset: the whole palette and back to its first entry. -/
theorem witness_PaletteTraversedInOrder :
    let s : State := { State.resetFor Config.small with
      host := [⟨false, true, 0, 0⟩, ⟨false, true, 0, 40⟩, ⟨false, true, 0, 41⟩, ⟨false, false, 0, 50⟩, ⟨false, true, 0, 80⟩,
        ⟨false, true, 0, 120⟩] }
    s.Inv ∧ s.regs.auto = true ∧ after 6 s = some (run 6 s) ∧
    everyEdge (fun u => nextReset u = false ∧ (nextOp u = none ∨ nextOp u = some .poll)) 6 s ∧
    countEdges nextCycleFires 6 s = 3 + 1 :=
  ⟨small_inv _, by decide, after_run _ _,
    everyEdge_of_check (p := fun u => decide (nextReset u = false ∧ (nextOp u = none ∨ nextOp u = some .poll)))
      (fun u hu => of_decide_eq_true hu) (by decide), by decide⟩

/-- A manual stretch with POLLs beyond the cycle interval; then the light off and on. -/
theorem witness_PaletteResumesWhereItStopped :
    let s := fed Config.small manual [(100, 0), (200, 0x0200000A0014001E), (300, 0)]
    let a := at' Config.small off 0
    let t := ran (.setPower true) a
    (after 3 s = some (run 3 s) ∧ everyEdge (fun u => nextReset u = false ∧ u.regs.auto = false) 3 s) ∧
    Instr.setPower true ≠ .poll ∧
    (a.regs.power = false ∧ exec (.setPower true) a = .next t ∧ a.cfg.palette[a.regs.cursor]? = some ⟨0, 255, 0⟩ ∧
      exec .poll { t with now := 40 } = .next (ran .poll { t with now := 40 }) ∧
      (a.cfg.cycleInterval : Int) ≤ ((40 : Int) - a.regs.cycleLast) % 2 ^ a.cfg.tw ∧
      ((39 : Int) - a.regs.cycleLast) % 2 ^ a.cfg.tw < a.cfg.cycleInterval) :=
  ⟨⟨after_run _ _, everyEdge_of_check (p := fun u => decide (nextReset u = false ∧ u.regs.auto = false))
      (fun u hu => of_decide_eq_true hu) (by decide)⟩,
    by decide, by decide, exec_ran _ _, by decide, exec_ran _ _, by decide, by decide⟩

/-- The last time at which the palette is applied and the first at which it is not; the ramp on both sides of its limit. -/
theorem witness_FirstPollAfterReset :
    Config.small.WF ∧ 65495 < 2 ^ Config.small.tw ∧ Config.small.palette[0]? = some ⟨255, 0, 0⟩ ∧
    exec .poll { State.resetFor Config.small with now := 65495 } =
      .next (ran .poll { State.resetFor Config.small with now := 65495 }) ∧
    65495 < 2 ^ Config.small.tw - Config.small.cycleInterval ∧ 2 ^ Config.small.tw - Config.small.cycleInterval ≤ 65496 ∧
    Config.small.rampInterval ≤ 5 ∧ 4 < Config.small.rampInterval :=
  ⟨Config.small_wf, by decide, by decide, exec_ran _ _, by decide, by decide, by decide, by decide⟩

theorem witness_FlagWriters :
    let s := fed Config.small small0 [(0, 0x0100000000000000)]
    let s' := fed Config.small small0 [(0, 0x0200000A0014001E)]
    (step s = .next (nextOf s) ∧ nextReset s = false ∧ (nextOf s).regs.power ≠ s.regs.power ∧
      (nextOf s).regs.auto ≠ s.regs.auto) ∧
    (step s' = .next (nextOf s') ∧ nextReset s' = false ∧ nextOp s' = some (.setColor 10 20 30) ∧
      (nextOf s').regs.auto ≠ s'.regs.auto) ∧
    off.power = false :=
  ⟨⟨step_nextOf _, by decide, by decide, by decide⟩, ⟨step_nextOf _, by decide, by decide, by decide⟩, by decide⟩

theorem witness_BrightnessReadOnlyByOutputs :
    let s := fed Config.small small0 [(0, 0x0300008000000000)]
    let a := at' Config.small manual 5
    let b : State := { a with regs := { a.regs with bright := 7 } }
    manual.power = true ∧
    (step s = .next (nextOf s) ∧ nextReset s = false ∧ (nextOf s).regs.bright ≠ s.regs.bright) ∧
    (exec .poll a = .next (ran .poll a) ∧ exec .poll b = .next (ran .poll b)) ∧ Instr.connect ≠ .poll :=
  ⟨by decide, ⟨step_nextOf _, by decide, by decide⟩, ⟨exec_ran _ _, exec_ran _ _⟩, by decide⟩

theorem witness_ArbiterTransitionTable :
    (modeAuto small0 = true ∧ modeManual manual = true ∧ modeOff off = true) ∧
    (exec .connect (at' Config.small off 0) = .next (ran .connect (at' Config.small off 0)) ∧ off.connected = true) ∧
    (exec .connect (at' Config.small { off with connected := false } 0) =
      .next (ran .connect (at' Config.small { off with connected := false } 0))) :=
  ⟨by decide, ⟨exec_ran _ _, by decide⟩, exec_ran _ _⟩

theorem witness_OnlyWaysIntoAutoMode :
    let s := fed Config.small off [(0, 0x0100000100000000)]
    step s = .next (nextOf s) ∧ s.regs.auto = false ∧ (nextOf s).regs.auto = true :=
  ⟨step_nextOf _, by decide, by decide⟩

/-- A SETCOLOR, then POLLs, a SETBRIGHT and a SETPOWER 0, over more than one cycle interval. -/
theorem witness_ManualColorHolds :
    let s := fed Config.small small0 [(10, 0), (60, 0x0300008000000000), (61, 0x0100000000000000), (200, 0)]
    let t := ran (.setColor 10 20 300) s
    exec (.setColor 10 20 300) s = .next t ∧ after 4 t = some (run 4 t) ∧
    everyEdge (fun v => nextReset v = false ∧ v.regs.auto = false ∧ ∀ r' g' b', nextOp v ≠ some (.setColor r' g' b')) 4 t := by
  refine ⟨exec_ran _ _, after_run _ _, everyEdge_of_check
    (p := fun v => !nextReset v && !v.regs.auto &&
      (nextOp v == some .poll || nextOp v == some (.setBright 128) || nextOp v == some (.setPower false))) ?_ (by decide)⟩
  intro u hu
  simp only [Bool.and_eq_true, Bool.or_eq_true, Bool.not_eq_true', beq_iff_eq] at hu
  refine ⟨hu.1.1, hu.1.2, fun r g b he => ?_⟩
  rw [he] at hu
  simp at hu

theorem witness_StartupEventFiresOnce :
    let s := fed Config.small small0 [(1, 0), (2, 0x0100000000000000), (3, 0x0500000000000000)]
    let t := ran .connect s
    exec .connect s = .next t ∧ after 3 t = some (run 3 t) ∧ everyEdge (fun x => nextReset x = false) 3 t ∧
    exec .connect (run 3 t) = .next (ran .connect (run 3 t)) :=
  ⟨exec_ran _ _, after_run _ _, noReset_of_check (by decide), exec_ran _ _⟩

theorem witness_AwakeWhileOff :
    let s := at' Config.small off 5
    let m := at' Config.small manual 0
    let t := ran (.setPower false) m
    (s.regs.power = false ∧ s.regs.auto = false ∧ exec .poll s = .next (ran .poll s) ∧
      rampDue s.cfg s.now s.regs = true) ∧
    (exec (.setPower false) m = .next t ∧ exec (.setPower true) t = .next (ran (.setPower true) t)) :=
  ⟨⟨by decide, by decide, exec_ran _ _, by decide⟩, exec_ran _ _, exec_ran _ _⟩

/-- The longest true time the elapsed test gets right, and a clock that goes backwards from 0. -/
theorem witness_ElapsedTestAcrossWrap :
    (60000 ≤ 60000 + 65535 ∧ (60000 + 65535) - 60000 < 2 ^ Config.small.tw) ∧ (0 < 65535 ∧ 0 + 65535 < 2 ^ 16) := by decide

theorem witness_TimersIndependent :
    let s := fed Config.small { small0 with cycleLast := 0, rampLast := 35 } [(40, 0)]
    let s' := fed Config.small small0 [(0, 0x0200000A0014001E)]
    (step s = .next (nextOf s) ∧ nextReset s = false ∧ (nextOf s).regs.rampLast ≠ s.regs.rampLast ∧
      (nextOf s).regs.cycleLast ≠ s.regs.cycleLast) ∧
    (step s' = .next (nextOf s') ∧ nextReset s' = false ∧ (nextOf s').regs.reportLast ≠ s'.regs.reportLast) ∧
    Instr.setColor 1 2 3 ≠ .poll :=
  ⟨⟨step_nextOf _, by decide, by decide, by decide⟩, ⟨step_nextOf _, by decide, by decide⟩, by decide⟩

theorem witness_FiringStampsNow :
    let s := fed Config.small { small0 with cycleLast := 0, rampLast := 35 } [(40, 0)]
    let s' := fed Config.small small0 [(0, 0x0200000A0014001E)]
    (step s = .next (nextOf s) ∧ nextReset s = false ∧ nextRampFires s = true ∧ nextCycleFires s = true) ∧
    (step s' = .next (nextOf s') ∧ nextReset s' = false ∧ (nextOf s').events.color ≠ none) :=
  ⟨⟨step_nextOf _, by decide, by decide, by decide⟩, step_nextOf _, by decide, by decide⟩

theorem witness_AtMostOneEventPerStep :
    let a := fed Config.small small0 [(0, 0x0100000000000000)]
    let b := fed Config.small small0 [(0, 0x0200000A0014001E)]
    let c := fed Config.small small0 [(0, 0x030003E800000000)]
    let d := fed Config.small small0 [(0, 0)]
    (step a = .next (nextOf a) ∧ (nextOf a).events.state = some false) ∧
    (step b = .next (nextOf b) ∧ (nextOf b).events.color = some ⟨10, 20, 30⟩) ∧
    (step c = .next (nextOf c) ∧ (nextOf c).events.bright = some 1000) ∧
    (step d = .next (nextOf d) ∧ nextOp d = some .poll) :=
  ⟨⟨step_nextOf _, by decide⟩, ⟨step_nextOf _, by decide⟩, ⟨step_nextOf _, by decide⟩, step_nextOf _, by decide⟩

/-- Reports at true times 65530 and 65580, exactly the interval apart and across the wrap, with a throttled one between. -/
theorem witness_ColorReportsRateLimited :
    let w : Word := 0x0200000A0014001E
    let trace : List (Nat × Word) := [(65530, w), (65535, w), (4, 0), (9, 0), (14, 0), (19, 0), (24, 0), (29, 0), (34, 0),
      (39, 0), (44, w)]
    let s := fed Config.small { manual with reportLast := 65480 } trace
    let a := nextOf s
    ClockDuty wrapClock s ∧ step s = .next a ∧ a.events.color ≠ none ∧
    after (9 + 1) a = some (run 10 a) ∧ (run 10 a).events.color ≠ none ∧
    everyEdge (fun u => nextReset u = false) (9 + 1) a :=
  ⟨clockDuty_of_check rfl (by decide), step_nextOf _, by decide, after_run _ _, by decide, noReset_of_check (by decide)⟩

theorem witness_CommandsIdempotentOnState :
    let s := at' Config.small off 0
    let t := ran (.setPower true) s
    (Instr.setPower true ≠ .poll ∧ exec (.setPower true) s = .next t ∧
      exec (.setPower true) { t with now := 9 } = .next (ran (.setPower true) { t with now := 9 }) ∧
      t.events.state ≠ none ∧ Instr.setPower true ≠ .connect) ∧
    (Instr.connect ≠ .poll ∧ exec .connect s = .next (ran .connect s)) :=
  ⟨⟨by decide, exec_ran _ _, exec_ran _ _, by decide, by decide⟩, by decide, exec_ran _ _⟩

theorem witness_OnlyPollAndSetColorReadNow :
    let s := at' Config.small off 0
    Instr.connect ≠ .poll ∧ (∀ r g b, Instr.connect ≠ .setColor r g b) ∧ exec .connect s = .next (ran .connect s) ∧
    exec .connect { s with now := 9 } = .next (ran .connect { s with now := 9 }) ∧
    (decode 0 = .op .poll ∧ step (s.present 0 65541) = .next (nextOf (s.present 0 65541))) ∧
    (decode 0x0200000A0014001E = .op (.setColor 10 20 30) ∧
      step (s.present 0x0200000A0014001E 50) = .next (nextOf (s.present 0x0200000A0014001E 50))) :=
  ⟨by decide, fun _ _ _ => by simp, exec_ran _ _, exec_ran _ _, ⟨by decide, step_nextOf _⟩, by decide, step_nextOf _⟩

/-- Each event present and absent; the throttle at its interval and one unit before. -/
theorem witness_PortsCarryPayloads :
    let s := at' Config.small manual 50
    let s' := at' Config.small { manual with connected := false } 49
    ((State.resetFor Config.small).Inv ∧ packColor ⟨255, 128, 0⟩ = packColor ⟨255, 128, 0⟩) ∧
    ((ran (.setColor 10 20 30) s).events.color = some ⟨10, 20, 30⟩ ∧ s.events.color = none) ∧
    exec (.setPower false) s = .next (ran (.setPower false) s) ∧
    (exec .connect s = .next (ran .connect s) ∧ exec .connect s' = .next (ran .connect s')) ∧
    reportDue s.cfg s.now s.regs = true ∧
    (reportDue s'.cfg s'.now s'.regs = false ∧ exec (.setColor 10 20 30) s' = .next (ran (.setColor 10 20 30) s')) ∧
    exec (.setBright 1000) s = .next (ran (.setBright 1000) s) ∧ exec .poll s = .next (ran .poll s) :=
  ⟨⟨small_inv [], rfl⟩, by decide, exec_ran _ _, ⟨exec_ran _ _, exec_ran _ _⟩, by decide, ⟨by decide, exec_ran _ _⟩,
    exec_ran _ _, exec_ran _ _⟩

/-- By hand from R78, R56 and R211: the clamped triple, red first, and the payload of a state event. -/
theorem test_event_ports :
    portEvtColor (ran (.setColor 300 20 0) (at' Config.small manual 50)) = some 0xFF1400 ∧
    portEvtState (ran (.setPower false) (at' Config.small manual 0)) = some false := by decide

theorem witness_TablesNeverWritten :
    let s := fed Config.small small0 [(0, 0), (5, 0)]
    after 2 s = some (run 2 s) := after_run _ _

theorem witness_TableReadsGiveEntries : 2 < Config.small.palLen ∧ (State.resetFor Config.small).Inv :=
  ⟨by decide, small_inv []⟩

theorem witness_CycleIntervalIsFloor : Config.small.WF := Config.small_wf

theorem witness_TimeUnitNeverRead :
    let s := fed Config.small small0 [(0, 0)]
    let s' : State := { s with cfg := { s.cfg with timeUnitNs := 1 } }
    step s = .next (nextOf s) ∧ step s' = .next (nextOf s') := ⟨step_nextOf _, step_nextOf _⟩

/-- Two states under one configuration that differ in every element, each at a reset edge. -/
theorem witness_NothingPersistsAcrossReset :
    let s : State := { at' Config.small manual 3 with host := [⟨true, true, 0x0400000000000000, 9⟩] }
    let s' : State := { at' Config.small off 8 with host := [⟨true, false, 0, 0⟩] }
    s.cfg = s'.cfg ∧ nextReset s = true ∧ nextReset s' = true ∧ step s = .next (nextOf s) ∧ step s' = .next (nextOf s') :=
  ⟨rfl, by decide, by decide, step_nextOf _, step_nextOf _⟩

theorem witness_ResetMeetsInvariant : Config.ref.WF := Config.ref_wf

theorem witness_StepKeepsInvariant :
    let s : State := { State.resetFor Config.small with host := [⟨false, true, 0, 70000⟩] }
    s.Inv ∧ step s = .next (nextOf s) := ⟨small_inv _, step_nextOf _⟩

theorem witness_ReachableStatesMeetInvariants :
    Config.small.WF ∧
      Reachable Config.small (nextOf { State.resetFor Config.small with host := [⟨false, true, 0, 5⟩] }) :=
  ⟨Config.small_wf, .step (.start _) (step_nextOf _)⟩

end Sys2Proof.Tests
end

section
/-! PROOF. The flags `power` and `auto` (spec/10_state.md R25, R26): who writes them, what they gate. -/

namespace Sys2Proof.Machine

/-- R131, the power value changes: `auto` follows it. -/
theorem autoAfterPower_of_ne {v : Bool} {s : Regs} (h : v ≠ s.power) : autoAfterPower v s = v := if_pos h

/-- R131, the power value stays: so does `auto`. -/
@[simp] theorem autoAfterPower_power (s : Regs) : autoAfterPower s.power s = s.auto := if_neg (not_not_intro rfl)

/-- Everything an edge that is no reset edge can do to the two flags: keep both; take `SetPowerAction(v)`, from a
SETPOWER or the first CONNECT; or clear `auto`, from a SETCOLOR. -/
theorem step_flags {s t : State} (h : step s = .next t) (hr : nextReset s = false) :
    ((∀ r g b, nextOp s ≠ some (.setColor r g b)) ∧
      t.regs.power = s.regs.power ∧ t.regs.auto = s.regs.auto) ∨
    (∃ v, (nextOp s = some (.setPower v) ∨ (nextOp s = some .connect ∧ s.regs.connected = false ∧ v = true)) ∧
      t.regs.power = v ∧ t.regs.auto = autoAfterPower v s.regs) ∨
    ((∃ r g b, nextOp s = some (.setColor r g b)) ∧
      t.regs.power = s.regs.power ∧ t.regs.auto = false) := by
  rcases step_effect h hr with ⟨op, e, _⟩ | ⟨op, e, _⟩ | ⟨v, op, e, _⟩ | ⟨r, g, b, op, _, e, _⟩ |
    ⟨r, g, b, op, _, e, _⟩ | ⟨x, op, e, _⟩ | ⟨op, hc, e, _⟩ | ⟨op, _, e, _⟩
  · exact .inl ⟨by simp [op], by simp [e]⟩
  · exact .inl ⟨by simp [op], by simp [e, pollRegs]⟩
  · exact .inr (.inl ⟨v, .inl op, by simp [e]⟩)
  · exact .inr (.inr ⟨⟨r, g, b, op⟩, by simp [e]⟩)
  · exact .inr (.inr ⟨⟨r, g, b, op⟩, by simp [e]⟩)
  · exact .inl ⟨by simp [op], by simp [e]⟩
  · exact .inr (.inl ⟨true, .inr ⟨op, hc, rfl⟩, by simp [e]⟩)
  · exact .inl ⟨by simp [op], by simp [e]⟩

section
variable {s t : State}

/-- R25: the writers of `power`. -/
theorem step_power_writers (h : step s = .next t) (hr : nextReset s = false) (hp : t.regs.power ≠ s.regs.power) :
    (∃ v, nextOp s = some (.setPower v) ∧ t.regs.power = v) ∨
    (nextOp s = some .connect ∧ s.regs.connected = false ∧ t.regs.power = true) := by
  rcases step_flags h hr with ⟨_, ep, _⟩ | ⟨v, op | ⟨op, hc, rfl⟩, ep, _⟩ | ⟨_, ep, _⟩
  · exact absurd ep hp
  · exact .inl ⟨v, op, ep⟩
  · exact .inr ⟨op, hc, ep⟩
  · exact absurd ep hp

/-- R26: a changed power value is copied to `auto`. -/
theorem step_auto_of_power_ne (h : step s = .next t) (hr : nextReset s = false)
    (hp : t.regs.power ≠ s.regs.power) : t.regs.auto = t.regs.power := by
  rcases step_flags h hr with ⟨_, ep, _⟩ | ⟨v, _, ep, ea⟩ | ⟨_, ep, _⟩
  · exact absurd ep hp
  · rw [ea, ep, autoAfterPower_of_ne (ep ▸ hp)]
  · exact absurd ep hp

/-- R26: the writers of `auto`. -/
theorem step_auto_writers (h : step s = .next t) (hr : nextReset s = false) (ha : t.regs.auto ≠ s.regs.auto) :
    (t.regs.power ≠ s.regs.power ∧ t.regs.auto = t.regs.power) ∨
    ((∃ r g b, nextOp s = some (.setColor r g b)) ∧ t.regs.auto = false) := by
  rcases step_flags h hr with ⟨_, _, ea⟩ | ⟨v, _, ep, ea⟩ | ⟨op, _, ea⟩
  · exact absurd ea ha
  · have hp : t.regs.power ≠ s.regs.power := fun hv => ha (by rw [ea, ← ep, hv, autoAfterPower_power])
    exact .inl ⟨hp, step_auto_of_power_ne h hr hp⟩
  · exact .inr ⟨op, ea⟩

/-- R133: a SETCOLOR clears `auto`. -/
theorem step_setColor_auto (h : step s = .next t) (hr : nextReset s = false) {r g b : Half}
    (op : nextOp s = some (.setColor r g b)) : t.regs.auto = false := by
  rcases step_flags h hr with ⟨hop, _⟩ | ⟨v, hop, _⟩ | ⟨_, _, ea⟩
  · exact absurd op (hop r g b)
  · simp [op] at hop
  · exact ea

end

/-- R166: with `power = 0` the Output Driver writes zeros. -/
theorem outputDriver_out_off (cfg : Config) {s : Regs} (h : s.power = false) :
    (outputDriver cfg s).out = ⟨0, 0, 0⟩ := by
  simp [Rgb.map, outputLevel_off h]

/-- R180: the targets after the loop body are those of its auto-cycle half, run only when `auto = 1`. -/
theorem pollRegs_tgt (cfg : Config) (now : Nat) (s : Regs) :
    (pollRegs cfg now s).tgt = if s.auto = true then (cycleTick cfg now s).tgt else s.tgt := by
  rw [pollRegs, rampTick_tgt, autoTick, apply_ite Regs.tgt]

/-- Settles O37: the writers from `step_flags`, the one inversion of an edge for the two flags; the gates from the Output
Driver and the loop body. -/
theorem flagWriters : Obligations.FlagWriters := by
  refine ⟨fun s t => step_power_writers, fun s t => step_auto_writers, fun s t h hr => ?_,
    fun cfg s => outputDriver_out_off cfg, fun s t h => ?_, fun cfg => ⟨rfl, rfl⟩⟩
  · exact ⟨step_auto_of_power_ne h hr, fun r g b => step_setColor_auto h hr⟩
  · rw [exec_poll] at h
    cases h
    exact pollRegs_tgt s.cfg s.now s.regs

end Sys2Proof.Machine
end

section
/-! PROOF. The read-only tables (spec/20_memory.md R58): no run changes the configuration that holds them. -/

namespace Sys2Proof.Machine

/-- Every run leaves the configuration alone, because every edge does. -/
theorem after_cfg {n : Nat} {s t : State} (h : after n s = some t) : t.cfg = s.cfg := by
  induction n generalizing s with
  | zero => cases h; rfl
  | succ n ih =>
    obtain ⟨u, hu, hut⟩ := after_succ_split h
    exact (ih hut).trans (step_frame hu).1

/-- Settles O52: both tables are fields of the configuration, which a run keeps (`after_cfg`). -/
theorem tablesNeverWritten : Obligations.TablesNeverWritten := fun n s t h => by
  have hcfg : t.cfg = s.cfg := after_cfg h
  exact ⟨hcfg, fun x => congrArg (gammaRead · x) hcfg, fun i => congrArg (paletteRead · i) hcfg⟩

end Sys2Proof.Machine
end

section
/-! PROOF. The Gamma Lookup Table (spec/40_gamma_lut.md): the lookup and the three current duty cycles. -/

namespace Sys2Proof.Machine

/-- R101 (b). -/
theorem gammaLookup_mono {cfg : Config} (h : cfg.WF) {x y : Byte} (hxy : x.toNat ≤ y.toNat) :
    gammaLookup cfg x ≤ gammaLookup cfg y :=
  Config.gamma_mono h hxy y.isLt

/-- R53: the entry of `GAMMA_REF` in closed form. -/
theorem gammaLookup_ref (x : Byte) : gammaLookup Config.ref x = x.toNat * x.toNat * 1023 / 65025 :=
  Config.gammaRef_getElem x.toNat x.isLt

/-- R101: `GAMMA_REF` is flat at its low end, since `7 * 7 * 1023 < 65025`. -/
theorem gammaLookup_ref_eq_zero {x : Byte} (hx : x.toNat ≤ 7) : gammaLookup Config.ref x = 0 := by
  have hsq : x.toNat * x.toNat ≤ 7 * 7 := Nat.mul_le_mul hx hx
  rw [gammaLookup_ref]
  exact Nat.div_eq_of_lt (by omega)

/-- R102: the duty cycles are the current values through the lookup, channel by channel. -/
theorem currentDutyCycles_eq (cfg : Config) (s : Regs) : currentDutyCycles cfg s =
    ⟨gammaLookup cfg s.cur.r, gammaLookup cfg s.cur.g, gammaLookup cfg s.cur.b⟩ := rfl

/-- Settles O25: order and bound from those of a well-formed table, the examples from the closed form of `GAMMA_REF`. -/
theorem gammaLookupContract : Obligations.GammaLookupContract := by
  refine ⟨fun cfg x => gammaRead_eq cfg x,
    fun cfg h x y hxy => ⟨gammaLookup_mono h hxy, gammaLookup_le h y⟩,
    fun x => gammaLookup_ref_eq_zero, gammaLookup_ref 128, currentDutyCycles_eq, fun s hs => ?_⟩
  rw [currentDutyCycles_eq, hs]
  simp [gammaLookup_ref]

end Sys2Proof.Machine
end

section
/-! PROOF. A command word presented at the next edge (spec/30_encoding.md R72, spec/45_control_loop.md R182): what the
edge answers once the word decodes, and the word told from its fields. -/

namespace Sys2Proof.Machine

/-- R182, R183: a word that decodes to an operation is executed with `now` sampled. -/
theorem step_present_op {w : Word} {i : Instr} (h : decode w = .op i) (s : State) (now : Nat) :
    step (s.present w now) = exec i { s with now := now % 2 ^ s.cfg.tw } := by
  simp [step, nextEdge, clockEdge, runWord, h, State.present, State.sample, sampleTime]

/-- R200: a rejected word shows in the status alone. -/
theorem step_present_reject {w : Word} {why : Reject} (h : decode w = .reject why) (s : State) (now : Nat) :
    step (s.present w now) = .next { s with status := rejectStatus why, events := .quiet } := by
  simp [step, nextEdge, clockEdge, runWord, h, State.present, State.reject]

/-- R72: a word whose five fields are 0 is 0. -/
theorem word_eq_zero_of_fields {w : Word} (ho : fieldOpcode w = 0) (hr : fieldReserved w = 0) (ha : fieldA w = 0)
    (hb : fieldB w = 0) (hc : fieldC w = 0) : w = 0 := by
  have no := fieldOpcode_toNat w
  have nr := fieldReserved_toNat w
  have na := fieldA_toNat w
  have nb := fieldB_toNat w
  have nc := fieldC_toNat w
  bv_omega

/-- R72: the two spellings of the opcode field. -/
theorem fieldOpcode_eq_iff (w : Word) (op : Byte) : fieldOpcode w = op ↔ opcodeOf w = op.toNat := by
  rw [← BitVec.toNat_inj, fieldOpcode_toNat, opcodeOf]

end Sys2Proof.Machine
end

section
/-! PROOF. SETBRIGHT (spec/41_ramp_engine.md R114): its word, its must-be-zero bits, and what a brightness does to the
outputs at the next firing of the ramp timer. -/

namespace Sys2Proof.Machine

/-- R77: the word of SETBRIGHT, as a number. -/
theorem decode_setBrightWord (x : Half) :
    decode (BitVec.ofNat 64 (3 * 2 ^ 56 + x.toNat * 2 ^ 32)) = .op (.setBright x) := by
  generalize hw : BitVec.ofNat 64 (3 * 2 ^ 56 + x.toNat * 2 ^ 32) = w
  have hn : w.toNat = 3 * 2 ^ 56 + x.toNat * 2 ^ 32 := by
    rw [← hw, BitVec.toNat_ofNat, Nat.mod_eq_of_lt (by have := x.isLt; omega)]
  have hop : fieldOpcode w = 3 := by have := fieldOpcode_toNat w; bv_omega
  have hr : fieldReserved w = 0 := by have := fieldReserved_toNat w; bv_omega
  have ha : fieldA w = x := by have := fieldA_toNat w; bv_omega
  have hb : fieldB w = 0 := by have := fieldB_toNat w; bv_omega
  have hc : fieldC w = 0 := by have := fieldC_toNat w; bv_omega
  simp [decode, decodeOperands, hop, hr, ha, hb, hc]

/-- R73: no must-be-zero bit of SETBRIGHT is set when the reserved byte, `B` and `C` are 0. -/
theorem and_setBrightMask_eq_zero {w : Word} (hr : fieldReserved w = 0) (hb : fieldB w = 0) (hc : fieldC w = 0) :
    w &&& 0x00FF0000FFFFFFFF = 0 := by
  unfold fieldReserved at hr
  unfold fieldB at hb
  unfold fieldC at hc
  apply word_eq_zero_of_fields
  · simp [fieldOpcode, BitVec.extractLsb'_and]
  · simp [fieldReserved, BitVec.extractLsb'_and, hr]
  · simp [fieldA, BitVec.extractLsb'_and]
  · simp [fieldB, BitVec.extractLsb'_and, hb]
  · simp [fieldC, BitVec.extractLsb'_and, hc]

/-- R80: opcode 3 with a must-be-zero bit set is rejected, in the reserved byte or in `B` or `C`. -/
theorem decode_setBright_reserved {w : Word} (ho : opcodeOf w = 3) (hz : w &&& 0x00FF0000FFFFFFFF ≠ 0) :
    decode w = .reject .reservedNonzero := by
  have hop : fieldOpcode w = 3 := (fieldOpcode_eq_iff w 3).mpr ho
  by_cases hr : fieldReserved w = 0
  · have hbc : fieldB w ≠ 0 ∨ fieldC w ≠ 0 := by
      by_contra! h
      obtain ⟨hb, hc⟩ := h
      exact hz (and_setBrightMask_eq_zero hr hb hc)
    rw [decode, hop, if_neg (by decide), if_neg (not_not_intro hr)]
    exact if_pos hbc
  · rw [decode, hop, if_neg (by decide), if_pos hr]

/-- R180: a POLL whose ramp timer fires. -/
theorem exec_poll_of_rampDue {s u : State} (h : exec .poll s = .next u) (hd : rampDue s.cfg s.now s.regs = true) :
    u.regs = rampFire s.cfg s.now (autoTick s.cfg s.now s.regs) := by
  rw [exec_poll] at h
  cases h
  exact pollRegs_of_rampDue hd

/-- R113, R181: the outputs a firing POLL writes are those of the new current values, at the brightness and power of the
state before it. -/
theorem poll_out_of_rampDue {s u : State} (h : exec .poll s = .next u) (hd : rampDue s.cfg s.now s.regs = true) :
    u.regs.out = u.regs.cur.map (outputLevel s.cfg s.regs) := by
  rw [exec_poll_of_rampDue h hd]
  simp [Rgb.map]

/-- R166: brightness 0 is dark, whatever the power. -/
theorem outputLevel_dark {cfg : Config} {s : Regs} (h : s.bright = 0) (x : Byte) : outputLevel cfg s x = 0 := by
  simp [outputLevel, scaleDuty, h]

/-- R166 under CFG_REF: brightness 128 at the full duty 1023, `floor(128 * 1023 / 255)`. -/
theorem outputLevel_ref_half {s : Regs} (hp : s.power = true) (hb : s.bright = 128) :
    outputLevel Config.ref s 255 = 513 := by
  simp [outputLevel, scaleDuty, hp, hb, gammaLookup_ref, Config.maxLogical]

/-- R112: a lane at its target stays there. -/
@[simp] theorem step1_self (x : Byte) : step1 x x = x := by simp [step1]

/-- R152: in manual mode the auto-cycle half of POLL is skipped. -/
theorem autoTick_of_manual {cfg : Config} {now : Nat} {s : Regs} (h : s.auto = false) : autoTick cfg now s = s := by
  simp [autoTick, h]

/-- R114: at brightness 0 a firing POLL darkens the outputs and keeps `power`. -/
theorem poll_dark {s u : State} (h : exec .poll s = .next u) (hd : rampDue s.cfg s.now s.regs = true)
    (hb : s.regs.bright = 0) : u.regs.out = ⟨0, 0, 0⟩ ∧ u.regs.power = s.regs.power := by
  constructor
  · rw [poll_out_of_rampDue h hd]
    simp [Rgb.map, outputLevel_dark hb]
  · simp [exec_poll_of_rampDue h hd]

/-- R114: at brightness 128, under CFG_REF, in manual mode and at full white, a firing POLL writes 513 three times. -/
theorem poll_half_fullWhite {s u : State} (h : exec .poll s = .next u) (hd : rampDue s.cfg s.now s.regs = true)
    (hb : s.regs.bright = 128) (hcfg : s.cfg = Config.ref) (hp : s.regs.power = true) (ha : s.regs.auto = false)
    (hcur : s.regs.cur = ⟨255, 255, 255⟩) (htgt : s.regs.tgt = ⟨255, 255, 255⟩) :
    u.regs.out = ⟨513, 513, 513⟩ := by
  have hwhite : u.regs.cur = ⟨255, 255, 255⟩ := by
    rw [exec_poll_of_rampDue h hd, autoTick_of_manual ha, rampFire_cur, hcur, htgt]
    simp [Rgb.map₂]
  rw [poll_out_of_rampDue h hd, hwhite, hcfg]
  simp only [Rgb.map, outputLevel_ref_half hp hb]

/-- Settles O15: the result is the operation's equation; the word and the rejections come from the decoder; the corner
examples are firing POLLs at brightness 0 and 128. -/
theorem setBrightResult : Obligations.SetBrightResult := by
  refine ⟨exec_setBright, fun s x now => step_present_op (decode_setBrightWord x) s now,
    fun s w now ho hz => step_present_reject (decode_setBright_reserved ho hz) s now, ?_, ?_⟩
  · intro s t u now ht hd hu
    rw [exec_setBright] at ht
    cases ht
    obtain ⟨hout, hpower⟩ := poll_dark hu hd rfl
    exact ⟨hout, hpower⟩
  · intro s t u now hcfg hp ha hcur htgt ht hd hu
    rw [exec_setBright] at ht
    cases ht
    exact poll_half_fullWhite hu hd rfl hcfg hp ha hcur htgt

end Sys2Proof.Machine
end

section
/-! PROOF. The lanes of the Ramp Engine (spec/41_ramp_engine.md R113, R116, R118). -/

namespace Sys2Proof.Machine

/-- R113, R116: what a tick does to one lane, from that lane and the ramp timer alone. -/
theorem rampTick_cur_get (cfg : Config) (now : Nat) (s : Regs) (c : Channel) :
    (rampTick cfg now s).cur.get c =
      if rampDue cfg now s = true then step1 (s.cur.get c) (s.tgt.get c) else s.cur.get c := by
  rcases rampTick_cases cfg now s with ⟨hd, e⟩ | ⟨hd, e⟩ <;> simp [hd, e]

/-- R113: the ramp timer reads its stamp only. -/
theorem rampDue_congr {s s' : Regs} (h : s.rampLast = s'.rampLast) (cfg : Config) (now : Nat) :
    rampDue cfg now s = rampDue cfg now s' := by
  rw [rampDue, rampDue, h]

/-- R150: the auto-cycle timer writes targets, never current values. -/
@[simp] theorem cycleTick_cur (cfg : Config) (now : Nat) (s : Regs) : (cycleTick cfg now s).cur = s.cur := by
  rcases cycleTick_cases cfg now s with ⟨_, e⟩ | ⟨_, e⟩ <;> simp [e]

/-- R133: SETCOLOR, reported or throttled, leaves the current values and stores the clamped targets. -/
theorem exec_setColor_cur_tgt {s t : State} {r g b : Half} (h : exec (.setColor r g b) s = .next t) :
    t.regs.cur = s.regs.cur ∧ t.regs.tgt = clampColor r g b := by
  cases hd : reportDue s.cfg s.now s.regs
  · rw [exec_setColor_throttled s hd] at h
    cases h
    exact ⟨rfl, rfl⟩
  · rw [exec_setColor_reported s hd] at h
    cases h
    exact ⟨rfl, rfl⟩

/-- Settles O20: a lane's next value is a function of that lane and the common timer (`rampTick_cur_get`); with targets
1 and 2 above black, red arrives at the first firing and green does not. -/
theorem lanesStepIndependently : Obligations.LanesStepIndependently := by
  refine ⟨fun cfg now s s' c hl hc ht => ?_, fun cfg now s => ?_,
    Config.small, 5, { Regs.reset Config.small with tgt := ⟨1, 2, 0⟩ }, Config.small_wf, by decide⟩
  · rw [rampTick_cur_get, rampTick_cur_get, rampDue_congr hl, hc, ht]
  · cases hd : rampDue cfg now s
    · exact .inr fun c => by simp [rampTick_cur_get, hd]
    · exact .inl fun c => by simp [rampTick_cur_get, hd]

/-- Settles O22: neither writer of the targets touches the current values, so the next firing steps from them. -/
theorem redirectionIsContinuous : Obligations.RedirectionIsContinuous := by
  refine ⟨fun t s => rfl, cycleTick_cur, fun s t r g b now h => ?_⟩
  obtain ⟨hcur, htgt⟩ := exec_setColor_cur_tgt h
  exact ⟨hcur, htgt, fun hd c => by rw [rampTick_cur_get, if_pos hd, hcur, htgt]⟩

end Sys2Proof.Machine
end

section
/-! PROOF. SETPOWER (spec/42_mode_arbiter.md R132): its flags, its two words, its must-be-zero bits, and re-sending. -/

namespace Sys2Proof.Machine

/-- R131: a second `SetPowerAction(v)` finds `power = v` and keeps `auto`. -/
@[simp] theorem setPowerAction_idem (v : Bool) (s : Regs) :
    setPowerAction v (setPowerAction v s) = setPowerAction v s :=
  congrArg (fun a => { s with auto := a, power := v }) (autoAfterPower_power (setPowerAction v s))

/-- R182: of two operations that complete in a row, the second one's writes, status and events stand. -/
@[simp] theorem State.complete_complete (r r' : Regs) (ev ev' : Events) (s : State) :
    (s.complete r ev).complete r' ev' = s.complete r' ev' := rfl

/-- R75: the two words of SETPOWER. -/
theorem decode_setPowerWord (v : Bool) :
    decode (if v then 0x0100000100000000 else 0x0100000000000000) = .op (.setPower v) := by
  cases v <;> decide

/-- A half word with `A[15:1] = 0` has no bit outside bit 0. -/
theorem and_eq_zero_of_upper_eq_zero {a : Half} (h : a.extractLsb' 1 15 = 0) : a &&& 0xFFFE = 0 := by
  have hn : a.toNat / 2 % 2 ^ 15 = 0 := by
    simpa [BitVec.extractLsb'_toNat, Nat.shiftRight_eq_div_pow] using congrArg BitVec.toNat h
  have h01 : a = 0 ∨ a = 1 := by bv_omega
  rcases h01 with rfl | rfl <;> decide

/-- R73: no must-be-zero bit of SETPOWER is set when the reserved byte, `A[15:1]`, `B` and `C` are 0. -/
theorem and_setPowerMask_eq_zero {w : Word} (hr : fieldReserved w = 0) (ha : (fieldA w).extractLsb' 1 15 = 0)
    (hb : fieldB w = 0) (hc : fieldC w = 0) : w &&& 0x00FFFFFEFFFFFFFF = 0 := by
  have ha' := and_eq_zero_of_upper_eq_zero ha
  unfold fieldReserved at hr
  unfold fieldA at ha'
  unfold fieldB at hb
  unfold fieldC at hc
  apply word_eq_zero_of_fields
  · simp [fieldOpcode, BitVec.extractLsb'_and]
  · simp [fieldReserved, BitVec.extractLsb'_and, hr]
  · simpa [fieldA, BitVec.extractLsb'_and] using ha'
  · simp [fieldB, BitVec.extractLsb'_and, hb]
  · simp [fieldC, BitVec.extractLsb'_and, hc]

/-- R80: opcode 1 with a must-be-zero bit set is rejected, in the reserved byte or in `A[15:1]`, `B` or `C`. -/
theorem decode_setPower_reserved {w : Word} (ho : opcodeOf w = 1) (hz : w &&& 0x00FFFFFEFFFFFFFF ≠ 0) :
    decode w = .reject .reservedNonzero := by
  have hop : fieldOpcode w = 1 := (fieldOpcode_eq_iff w 1).mpr ho
  by_cases hr : fieldReserved w = 0
  · have habc : (fieldA w).extractLsb' 1 15 ≠ 0 ∨ fieldB w ≠ 0 ∨ fieldC w ≠ 0 := by
      by_contra! h
      obtain ⟨ha, hb, hc⟩ := h
      exact hz (and_setPowerMask_eq_zero hr ha hb hc)
    rw [decode, hop, if_neg (by decide), if_neg (not_not_intro hr)]
    exact if_pos habc
  · rw [decode, hop, if_neg (by decide), if_pos hr]

/-- Settles O13: the result is the operation's equation with `autoAfterPower_eq`; the words and the rejections come from
the decoder; re-sending is the idempotence of `SetPowerAction`. -/
theorem setPowerResult : Obligations.SetPowerResult := by
  refine ⟨fun s v => ?_, fun s v now => step_present_op (decode_setPowerWord v) s now,
    fun s w now ho hz => step_present_reject (decode_setPower_reserved ho hz) s now, fun s t u v ht hu => ?_⟩
  · rw [exec_setPower, setPowerAction, autoAfterPower_eq]
    rfl
  · rw [exec_setPower] at ht hu
    cases ht
    cases hu
    rw [State.complete_regs, setPowerAction_idem, State.complete_complete]

end Sys2Proof.Machine
end

section
/-! PROOF. The Auto-Cycle Timer (spec/43_auto_cycle.md R150 to R152): what an edge does to its stamp and to the palette
cursor, and where the flag `auto` is tested. -/

namespace Sys2Proof.Machine

/-- R151: before the last entry the cursor advances by one. -/
theorem nextCursor_of_lt {cfg : Config} {k : Nat} (h : k + 1 < cfg.palLen) : nextCursor cfg k = k + 1 :=
  Nat.mod_eq_of_lt h

/-- R151: after the last entry the cursor wraps to 0. -/
theorem nextCursor_last {cfg : Config} {k : Nat} (h : k + 1 = cfg.palLen) : nextCursor cfg k = 0 := by
  rw [nextCursor, h, Nat.mod_self]

/-- R150, R152: the timer neither reads nor writes `auto`. -/
theorem cycleTick_update_auto (cfg : Config) (now : Nat) (s : Regs) (a : Bool) :
    cycleTick cfg now { s with auto := a } = { cycleTick cfg now s with auto := a } := by
  rcases cycleTick_cases cfg now s with ⟨hd, e⟩ | ⟨hd, e⟩ <;> rw [e]
  · exact if_pos hd
  · exact if_neg (ne_true_of_eq_false hd)

/-- R151: with one entry, the cursor stays 0 and every firing applies that entry. -/
theorem cycleTick_oneEntry {cfg : Config} {e : Rgb Byte} {s : Regs} (hp : cfg.palette = [e]) (h0 : s.cursor = 0)
    (now : Nat) :
    (cycleTick cfg now s).cursor = 0 ∧ (cycleDue cfg now s = true → (cycleTick cfg now s).tgt = e) := by
  have hlast : s.cursor + 1 = cfg.palLen := by simp [Config.palLen, hp, h0]
  have hread : paletteRead cfg s.cursor = e := by simp [paletteRead, hp, h0]
  rcases cycleTick_cases cfg now s with ⟨_, he⟩ | ⟨hd, he⟩
  · simp [he, nextCursor_last hlast, hread]
  · simp [he, hd, h0]

/-- R152: in auto mode the loop body consults the timer. -/
theorem autoTick_of_auto {cfg : Config} {now : Nat} {s : Regs} (h : s.auto = true) :
    autoTick cfg now s = cycleTick cfg now s := if_pos h

/-- R180: the stamp, the cursor and the targets after a POLL are those of its auto-cycle half. -/
theorem exec_poll_cycle {s t : State} (h : exec .poll s = .next t) :
    t.regs.cycleLast = (autoTick s.cfg s.now s.regs).cycleLast ∧
    t.regs.cursor = (autoTick s.cfg s.now s.regs).cursor ∧ t.regs.tgt = (autoTick s.cfg s.now s.regs).tgt := by
  rw [exec_poll] at h
  cases h
  simp [pollRegs]

/-- R150: no operation but POLL writes the timer's stamp or the cursor. -/
theorem exec_keeps_cycle {i : Instr} {s t : State} (hi : i ≠ .poll) (h : exec i s = .next t) :
    t.regs.cycleLast = s.regs.cycleLast ∧ t.regs.cursor = s.regs.cursor := by
  cases i with
  | poll => exact absurd rfl hi
  | setPower v => cases h; exact ⟨rfl, rfl⟩
  | setColor r g b =>
    cases hd : reportDue s.cfg s.now s.regs
    · rw [exec_setColor_throttled s hd] at h; cases h; exact ⟨rfl, rfl⟩
    · rw [exec_setColor_reported s hd] at h; cases h; exact ⟨rfl, rfl⟩
  | setBright x => cases h; exact ⟨rfl, rfl⟩
  | connect =>
    cases hc : s.regs.connected
    · rw [exec_connect_first s hc] at h; cases h; exact ⟨rfl, rfl⟩
    · rw [exec_connect_again s hc] at h; cases h; exact ⟨rfl, rfl⟩

theorem nextCycleFires_iff (s : State) : nextCycleFires s = true ↔
    nextOp s = some .poll ∧ s.regs.auto = true ∧ cycleDue s.cfg (nextNow s) s.regs = true := by
  simp [nextCycleFires, and_assoc]

/-- Everything an edge that is no reset edge can do to the timer's stamp and the cursor: fire, which stamps the sampled
time and advances the cursor, or keep both. -/
theorem step_cycle {s t : State} (h : step s = .next t) (hr : nextReset s = false) :
    (nextCycleFires s = true ∧ t.regs.cycleLast = nextNow s ∧ t.regs.cursor = nextCursor s.cfg s.regs.cursor) ∨
    (nextCycleFires s = false ∧ t.regs.cycleLast = s.regs.cycleLast ∧ t.regs.cursor = s.regs.cursor) := by
  rcases step_cases h with ⟨h1, _⟩ | ⟨_, op, st, rfl⟩ | ⟨_, i, op, hx⟩
  · simp [hr] at h1
  · exact .inr ⟨by simp [nextCycleFires, op], rfl, rfl⟩
  · by_cases hi : i = .poll
    · subst hi
      obtain ⟨hlast, hcursor, _⟩ := exec_poll_cycle hx
      rcases autoTick_cases s.cfg (nextNow s) s.regs with ⟨ha, hd, e⟩ | ⟨hn, e⟩
      · exact .inl ⟨(nextCycleFires_iff s).mpr ⟨op, ha, hd⟩, by simp [hlast, e], by simp [hcursor, e]⟩
      · have hq : nextCycleFires s = false := by
          rcases hn with ha | hd
          · simp [nextCycleFires, ha]
          · simp [nextCycleFires, hd]
        exact .inr ⟨hq, by simp [hlast, e], by simp [hcursor, e]⟩
    · have hkeep := exec_keeps_cycle hi hx
      exact .inr ⟨by simp [nextCycleFires, op, hi], hkeep⟩

/-- I-b: every edge keeps the cursor in the palette, under any configuration. -/
theorem step_cursor_lt {s t : State} (h : step s = .next t) (hc : s.regs.cursor < s.cfg.palLen) :
    t.regs.cursor < t.cfg.palLen := by
  have hpos : 0 < s.cfg.palLen := Nat.zero_lt_of_lt hc
  rw [(step_frame h).1]
  cases hr : nextReset s
  · rcases step_cycle h hr with ⟨_, _, e⟩ | ⟨_, _, e⟩ <;> rw [e]
    · exact Nat.mod_lt _ hpos
    · exact hc
  · rw [(step_reset h hr).1]
    exact hpos

/-- Settles O32: the two cases of `nextCursor`, the one-entry palette, and the one inversion of an edge for the cursor. -/
theorem cursorAdvancesByOneAndWraps : Obligations.CursorAdvancesByOneAndWraps := by
  refine ⟨fun cfg k => ⟨nextCursor_of_lt, nextCursor_last⟩, fun cfg now s e hp h0 => cycleTick_oneEntry hp h0 now,
    fun s t h hr => ?_, fun s t => step_cursor_lt⟩
  rcases step_cycle h hr with ⟨hf, _, e⟩ | ⟨_, _, e⟩
  · exact .inr ⟨hf, e⟩
  · exact .inl e

/-- Settles O33: the timer commutes with any value of `auto`; POLL's auto-cycle half is the timer or nothing by the flag;
and an edge that moves the stamp or the cursor is a firing one. -/
theorem autoTickGatedByPoll : Obligations.AutoTickGatedByPoll := by
  refine ⟨cycleTick_update_auto, fun s t ha h => ?_, fun s t ha h => ?_, fun s t h hr hw => ?_⟩
  · simpa only [autoTick_of_manual ha] using exec_poll_cycle h
  · simpa only [autoTick_of_auto ha] using exec_poll_cycle h
  · rcases step_cycle h hr with ⟨hf, _⟩ | ⟨_, hlast, hcursor⟩
    · obtain ⟨op, ha, _⟩ := (nextCycleFires_iff s).mp hf
      exact ⟨op, ha⟩
    · exact absurd hw (by simp [hlast, hcursor])

end Sys2Proof.Machine
end

section
/-! PROOF. The step (spec/45_control_loop.md R182, spec/60_exceptions.md R200): one result, by dispatch or by rejection. -/

namespace Sys2Proof.Machine

/-- R182: the step is total (`step_next`) and, being a function, has one result only. -/
theorem step_existsUnique (s : State) : ∃! t : State, step s = .next t := by
  obtain ⟨t, ht⟩ := step_next s
  exact ⟨t, ht, fun u hu => Host.Outcome.next.inj (hu.symm.trans ht)⟩

/-- Settles O8: every edge answers one next state; a presented word is dispatched or rejected as it decodes, and
`rejectStatus` gives each rejection its code. -/
theorem stepRunsDecodedOperation : Obligations.StepRunsDecodedOperation := by
  refine ⟨step_existsUnique, fun s w now => ⟨fun i h => step_present_op h s now, fun why h => ?_⟩⟩
  cases why with
  | illegalOpcode => exact step_present_reject h s now
  | reservedNonzero => exact step_present_reject h s now

end Sys2Proof.Machine
end

section
/-! PROOF. POLL (spec/45_control_loop.md R180, R181): its word, its must-be-zero bits, what it leaves alone, what a firing
one does to the lanes, and the first two POLLs after reset under CFG_REF. -/

namespace Sys2Proof.Machine

/-- R74: the word of POLL. -/
theorem decode_pollWord : decode 0 = .op .poll := by decide

/-- R80: opcode 0 with a must-be-zero bit set is rejected, in the reserved byte or in `A`, `B` or `C`. -/
theorem decode_poll_reserved {w : Word} (ho : opcodeOf w = 0) (hz : w &&& 0x00FFFFFFFFFFFFFF ≠ 0) :
    decode w = .reject .reservedNonzero := by
  have hop : fieldOpcode w = 0 := (fieldOpcode_eq_iff w 0).mpr ho
  by_cases hr : fieldReserved w = 0
  · have habc : fieldA w ≠ 0 ∨ fieldB w ≠ 0 ∨ fieldC w ≠ 0 := by
      by_contra! h
      obtain ⟨ha, hb, hc⟩ := h
      exact hz (by rw [word_eq_zero_of_fields hop hr ha hb hc]; decide)
    rw [decode, hop, if_neg (by decide), if_neg (not_not_intro hr)]
    exact if_pos habc
  · rw [decode, hop, if_neg (by decide), if_pos hr]

/-- R150, R152: the auto-cycle half of POLL does nothing when the timer is not consulted or its interval not elapsed. -/
theorem autoTick_of_not_due {cfg : Config} {now : Nat} {s : Regs} (h : s.auto = true → cycleDue cfg now s = false) :
    autoTick cfg now s = s := by
  rcases autoTick_cases cfg now s with ⟨ha, hd, _⟩ | ⟨_, e⟩
  · simp [h ha] at hd
  · exact e

/-- R150, R152: it fires in auto mode once the interval has elapsed. -/
theorem autoTick_of_due {cfg : Config} {now : Nat} {s : Regs} (ha : s.auto = true) (hd : cycleDue cfg now s = true) :
    autoTick cfg now s = cycleFire cfg now s :=
  (autoTick_of_auto ha).trans (if_pos hd)

/-- R55: a palette read gives the entry that stands at the index. -/
theorem paletteRead_of_getElem? {cfg : Config} {i : Nat} {e : Rgb Byte} (h : cfg.palette[i]? = some e) :
    paletteRead cfg i = e := by
  simp [paletteRead, h]

/-- R180: the flags, the brightness, the guard and the throttle's stamp, which no POLL writes. -/
theorem exec_poll_frame {s t : State} (h : exec .poll s = .next t) :
    t.regs.power = s.regs.power ∧ t.regs.auto = s.regs.auto ∧ t.regs.bright = s.regs.bright ∧
    t.regs.connected = s.regs.connected ∧ t.regs.reportLast = s.regs.reportLast := by
  rw [exec_poll] at h
  cases h
  simp [pollRegs]

/-- R180: a POLL that fires neither timer writes no element. -/
theorem exec_poll_of_not_due {s : State} (hc : s.regs.auto = true → cycleDue s.cfg s.now s.regs = false)
    (hr : rampDue s.cfg s.now s.regs = false) : exec .poll s = .next (s.complete s.regs .quiet) := by
  rw [exec_poll, pollRegs_of_not_rampDue hr, autoTick_of_not_due hc]

section
variable {s t : State} (h : exec .poll s = .next t) (hd : rampDue s.cfg s.now s.regs = true)
include h hd

/-- R181: when the ramp timer fires, every lane steps toward the target that this same POLL leaves stored. -/
theorem poll_cur_of_rampDue (c : Channel) :
    t.regs.cur.get c = step1 (s.regs.cur.get c) (t.regs.tgt.get c) := by
  simp [exec_poll_of_rampDue h hd]

/-- R181: both timers fire. The palette entry at the cursor is stored first and the ramp step is already toward it. -/
theorem poll_of_both_due {e : Rgb Byte} (ha : s.regs.auto = true) (he : s.cfg.palette[s.regs.cursor]? = some e)
    (hc : cycleDue s.cfg s.now s.regs = true) :
    t.regs.tgt = e ∧ ∀ c, t.regs.cur.get c = step1 (s.regs.cur.get c) (e.get c) := by
  have htgt : t.regs.tgt = e := by
    obtain ⟨_, _, htgt⟩ := exec_poll_cycle h
    rw [htgt, autoTick_of_due ha hc, cycleFire_tgt, paletteRead_of_getElem? he]
  exact ⟨htgt, fun c => htgt ▸ poll_cur_of_rampDue h hd c⟩

/-- R119, R180: with the light off the ramp still steps, toward the targets as they stood, and the outputs are 0. -/
theorem poll_while_off (hp : s.regs.power = false) (ha : s.regs.auto = false) :
    t.regs.out = ⟨0, 0, 0⟩ ∧ ∀ c, t.regs.cur.get c = step1 (s.regs.cur.get c) (s.regs.tgt.get c) := by
  have hout : t.regs.out = ⟨0, 0, 0⟩ := by
    rw [poll_out_of_rampDue h hd]
    simp [Rgb.map, outputLevel_off hp]
  have htgt : t.regs.tgt = s.regs.tgt := by
    obtain ⟨_, _, htgt⟩ := exec_poll_cycle h
    rw [htgt, autoTick_of_manual ha]
  exact ⟨hout, fun c => htgt ▸ poll_cur_of_rampDue h hd c⟩

end

/-- R180, its example: the first POLL after reset, at time 0. The auto-cycle timer is born expired and takes the first
palette entry; the ramp timer is not. -/
theorem exec_poll_ref_first : ∃ t : State, exec .poll { State.resetFor Config.ref with now := 0 } = .next t ∧
    t.regs = { Regs.reset Config.ref with tgt := ⟨255, 0, 0⟩, cursor := 1, cycleLast := 0 } := by
  refine ⟨_, exec_poll _, ?_⟩
  rw [State.complete_regs, pollRegs_of_not_rampDue (by decide), autoTick_of_due rfl (by decide)]
  rfl

/-- R166 under CFG_REF: a channel value up to 7 is dark at every brightness. -/
theorem outputLevel_ref_eq_zero (s : Regs) {x : Byte} (hx : x.toNat ≤ 7) : outputLevel Config.ref s x = 0 := by
  simp [outputLevel, scaleDuty, gammaLookup_ref_eq_zero hx]

/-- R113: a firing `RampTick`, as the record it writes. -/
theorem rampFire_eq (cfg : Config) (now : Nat) (s : Regs) : rampFire cfg now s =
    { s with rampLast := now, cur := s.cur.map₂ step1 s.tgt,
             out := (s.cur.map₂ step1 s.tgt).map (outputLevel cfg s) } := rfl

/-- R180, its example: the POLL at time 500 fires the ramp timer only, and red takes its first step toward 255. The
outputs stay 0 because `GAMMA_REF[1] = 0`. -/
theorem exec_poll_ref_second {s : State} (hcfg : s.cfg = Config.ref)
    (hr : s.regs = { Regs.reset Config.ref with tgt := ⟨255, 0, 0⟩, cursor := 1, cycleLast := 0 }) :
    ∃ u : State, exec .poll { s with now := 500 } = .next u ∧
      u.regs = { s.regs with cur := ⟨1, 0, 0⟩, rampLast := 500 } := by
  refine ⟨_, exec_poll _, ?_⟩
  have hstep : s.regs.cur.map₂ step1 s.regs.tgt = ⟨1, 0, 0⟩ := by rw [hr]; decide
  have hdark : (⟨1, 0, 0⟩ : Rgb Byte).map (outputLevel Config.ref s.regs) = s.regs.out := by
    rw [hr]
    simp [Rgb.map, outputLevel_ref_eq_zero, Regs.reset]
  have hramp : rampDue Config.ref 500 s.regs = true := by rw [hr]; decide
  have hcycle : cycleDue Config.ref 500 s.regs = false := by rw [hr]; decide
  rw [State.complete_regs, hcfg, pollRegs_of_rampDue hramp, autoTick_of_not_due fun _ => hcycle, rampFire_eq, hstep,
    hdark]

/-- Settles O17: the result is the operation's equation, the corner cases are the firing POLLs above; the word and the
rejections come from the decoder; the worked example is evaluated one half of the loop body at a time. -/
theorem pollResult : Obligations.PollResult := by
  refine ⟨exec_poll, fun s => exec_poll_of_not_due, fun s t => exec_poll_frame,
    fun s t e ha he hc hd h => poll_of_both_due h hd ha he hc, fun s t hp ha hd h => poll_while_off h hd hp ha,
    step_present_op decode_pollWord,
    fun s w now ho hz => step_present_reject (decode_poll_reserved ho hz) s now, ?_⟩
  obtain ⟨t, ht, htr⟩ := exec_poll_ref_first
  obtain ⟨hcfg, _⟩ := exec_frame ht
  obtain ⟨u, hu, hur⟩ := exec_poll_ref_second hcfg htr
  exact ⟨t, u, ht, htr, hu, hur⟩

end Sys2Proof.Machine
end

section
/-! PROOF. How an operation ends (spec/60_exceptions.md R201, R202): with status OK, also where an operand saturates, the
throttle holds back the event or nothing fires. -/

namespace Sys2Proof.Machine

/-- R201: no operation fails once decoded. -/
theorem exec_ok (i : Instr) (s : State) : ∃ t, exec i s = .next t ∧ t.status = .ok := by
  obtain ⟨t, ht⟩ := exec_next i s
  obtain ⟨_, _, _, hok⟩ := exec_frame ht
  exact ⟨t, ht, hok⟩

/-- Settles O11: every operation ends OK (`exec_ok`); the state changes are the targets of `exec_setColor_cur_tgt` and the
equations of SETBRIGHT and of a throttled SETCOLOR, with saturation from `clamp8_toNat`. -/
theorem acceptedThoughNothingToReport : Obligations.AcceptedThoughNothingToReport := by
  refine ⟨fun s r g b => ?_, fun s x => ⟨_, exec_setBright s x, rfl, clamp8_toNat x⟩,
    fun s r g b hd => ⟨_, exec_setColor_throttled s hd, rfl, rfl, rfl, rfl⟩,
    fun s _ => exec_ok .connect s, fun s _ _ => exec_ok .poll s⟩
  obtain ⟨t, ht, hok⟩ := exec_ok (.setColor r g b) s
  obtain ⟨_, htgt⟩ := exec_setColor_cur_tgt ht
  refine ⟨t, ht, hok, ?_⟩
  rw [htgt]
  exact ⟨clamp8_toNat r, clamp8_toNat g, clamp8_toNat b⟩

end Sys2Proof.Machine
end

section
/-! PROOF. The light off (spec/60_exceptions.md R234): every operation still runs, and an off/on cycle writes the
flags only. -/

namespace Sys2Proof.Machine

/-- R152: in manual mode, and so with the light off, POLL neither advances the palette nor takes an entry of it. -/
theorem poll_keeps_palette_of_manual {s t : State} (ha : s.regs.auto = false) (h : exec .poll s = .next t) :
    t.regs.cursor = s.regs.cursor ∧ t.regs.tgt = s.regs.tgt := by
  obtain ⟨_, hcursor, htgt⟩ := exec_poll_cycle h
  rw [autoTick_of_manual ha] at hcursor htgt
  exact ⟨hcursor, htgt⟩

/-- R113: a POLL whose ramp timer fires stamps the sampled time. -/
theorem poll_rampLast_of_rampDue {s t : State} (h : exec .poll s = .next t)
    (hd : rampDue s.cfg s.now s.regs = true) : t.regs.rampLast = s.now := by
  rw [exec_poll_of_rampDue h hd, rampFire_rampLast]

/-- R131: one power command after another writes nothing but the two flags. -/
theorem setPower_setPower_frame {s t u : State} {v w : Bool} (ht : exec (.setPower v) s = .next t)
    (hu : exec (.setPower w) t = .next u) : u.regs = { s.regs with power := w, auto := u.regs.auto } := by
  rw [exec_setPower] at ht hu
  cases ht
  cases hu
  rfl

/-- Settles O43: operations complete whatever the power; the loop body with the light off keeps the palette and steps the
ramp (`poll_while_off`); the off/on cycle is two power commands. -/
theorem awakeWhileOff : Obligations.AwakeWhileOff := by
  refine ⟨fun i s _ => exec_ok i s, fun s t hp ha h => ?_, fun s t u => setPower_setPower_frame⟩
  obtain ⟨hcursor, htgt⟩ := poll_keeps_palette_of_manual ha h
  exact ⟨hcursor, htgt, fun hd => ⟨poll_rampLast_of_rampDue h hd, poll_while_off h hd hp ha⟩⟩

end Sys2Proof.Machine
end

section
/-! PROOF. The three timers (spec/60_exceptions.md R223): which firing writes which stamp. The auto-cycle timer's stamp is
`step_cycle`'s; the other two are here. -/

namespace Sys2Proof.Machine

/-- R223: the auto-cycle timer does not write the stamp of the ramp timer. -/
@[simp] theorem cycleTick_rampLast (cfg : Config) (now : Nat) (s : Regs) :
    (cycleTick cfg now s).rampLast = s.rampLast := by
  rcases cycleTick_cases cfg now s with ⟨_, e⟩ | ⟨_, e⟩ <;> simp [e]

/-- R223: the auto-cycle timer does not write the stamp of the throttle. -/
@[simp] theorem cycleTick_reportLast (cfg : Config) (now : Nat) (s : Regs) :
    (cycleTick cfg now s).reportLast = s.reportLast := by
  rcases cycleTick_cases cfg now s with ⟨_, e⟩ | ⟨_, e⟩ <;> simp [e]

/-- Everything an operation can do to the stamps of the ramp timer and the throttle: keep both; stamp the first, by a POLL
whose ramp timer fires; or stamp the second, by a SETCOLOR that reports. -/
theorem exec_rampLast_reportLast {i : Instr} {s t : State} (h : exec i s = .next t) :
    (t.regs.rampLast = s.regs.rampLast ∧ t.regs.reportLast = s.regs.reportLast) ∨
    (i = .poll ∧ rampDue s.cfg s.now s.regs = true ∧
      t.regs.rampLast = s.now ∧ t.regs.reportLast = s.regs.reportLast) ∨
    ((∃ r g b, i = .setColor r g b) ∧ reportDue s.cfg s.now s.regs = true ∧
      t.regs.rampLast = s.regs.rampLast ∧ t.regs.reportLast = s.now) := by
  cases i with
  | poll =>
    obtain ⟨_, _, _, _, hreport⟩ := exec_poll_frame h
    cases hd : rampDue s.cfg s.now s.regs
    · rw [exec_poll, pollRegs_of_not_rampDue hd] at h
      cases h
      exact .inl ⟨autoTick_rampLast s.cfg s.now s.regs, hreport⟩
    · exact .inr (.inl ⟨rfl, rfl, poll_rampLast_of_rampDue h hd, hreport⟩)
  | setPower v => cases h; exact .inl ⟨rfl, rfl⟩
  | setColor r g b =>
    cases hd : reportDue s.cfg s.now s.regs
    · rw [exec_setColor_throttled s hd] at h; cases h; exact .inl ⟨rfl, rfl⟩
    · rw [exec_setColor_reported s hd] at h; cases h; exact .inr (.inr ⟨⟨r, g, b, rfl⟩, rfl, rfl, rfl⟩)
  | setBright x => cases h; exact .inl ⟨rfl, rfl⟩
  | connect =>
    cases hc : s.regs.connected
    · rw [exec_connect_first s hc] at h; cases h; exact .inl ⟨rfl, rfl⟩
    · rw [exec_connect_again s hc] at h; cases h; exact .inl ⟨rfl, rfl⟩

/-- The same of an edge that is no reset edge. -/
theorem step_rampLast_reportLast {s t : State} (h : step s = .next t) (hr : nextReset s = false) :
    (t.regs.rampLast = s.regs.rampLast ∧ t.regs.reportLast = s.regs.reportLast) ∨
    (nextRampFires s = true ∧ t.regs.rampLast = nextNow s ∧ t.regs.reportLast = s.regs.reportLast) ∨
    ((∃ r g b, nextOp s = some (.setColor r g b)) ∧ reportDue s.cfg (nextNow s) s.regs = true ∧
      t.regs.rampLast = s.regs.rampLast ∧ t.regs.reportLast = nextNow s) := by
  rcases step_cases h with ⟨h1, _⟩ | ⟨_, _, _, rfl⟩ | ⟨_, i, op, hx⟩
  · simp [hr] at h1
  · exact .inl ⟨rfl, rfl⟩
  · rcases exec_rampLast_reportLast hx with hkeep | ⟨rfl, hd, hstamps⟩ | ⟨⟨r, g, b, rfl⟩, hreport⟩
    · exact .inl hkeep
    · exact .inr (.inl ⟨by simpa [nextRampFires, op] using hd, hstamps⟩)
    · exact .inr (.inr ⟨⟨r, g, b, op⟩, hreport⟩)

/-- R223: no command restarts the ramp timer or the auto-cycle timer. -/
theorem exec_keeps_rampLast_cycleLast {i : Instr} {s t : State} (hi : i ≠ .poll) (h : exec i s = .next t) :
    t.regs.rampLast = s.regs.rampLast ∧ t.regs.cycleLast = s.regs.cycleLast := by
  obtain ⟨hcycle, _⟩ := exec_keeps_cycle hi h
  rcases exec_rampLast_reportLast h with ⟨hramp, _⟩ | ⟨hpoll, _⟩ | ⟨_, _, hramp, _⟩
  · exact ⟨hramp, hcycle⟩
  · exact absurd hpoll hi
  · exact ⟨hramp, hcycle⟩

/-- Settles O45: `step_cycle` and `step_rampLast_reportLast`, the two inversions of an edge for the stamps, say which firing
writes each; the ticks and the commands keep the others. -/
theorem timersIndependent : Obligations.TimersIndependent := by
  refine ⟨fun s t h hr => ⟨fun hw => ?_, fun hw => ?_, fun hw => ?_⟩,
    fun cfg now s => ⟨rampTick_cycleLast cfg now s, rampTick_reportLast cfg now s,
      cycleTick_rampLast cfg now s, cycleTick_reportLast cfg now s⟩,
    fun i s t => exec_keeps_rampLast_cycleLast⟩
  · rcases step_rampLast_reportLast h hr with ⟨e, _⟩ | ⟨hf, _⟩ | ⟨_, _, e, _⟩
    · exact absurd e hw
    · exact hf
    · exact absurd e hw
  · rcases step_cycle h hr with ⟨hf, _⟩ | ⟨_, e, _⟩
    · exact hf
    · exact absurd e hw
  · rcases step_rampLast_reportLast h hr with ⟨_, e⟩ | ⟨_, _, e⟩ | ⟨op, hd, _⟩
    · exact absurd e hw
    · exact absurd e hw
    · exact ⟨op, hd⟩

end Sys2Proof.Machine
end

section
/-! PROOF. The outputs lag behind the commands (spec/70_reset_and_hazards.md R255): only a POLL whose ramp timer fires
writes them. -/

namespace Sys2Proof.Machine

/-- R167: no operation but POLL writes the outputs. -/
theorem exec_keeps_out {i : Instr} {s t : State} (hi : i ≠ .poll) (h : exec i s = .next t) :
    t.regs.out = s.regs.out := by
  cases i with
  | poll => exact absurd rfl hi
  | setPower v => cases h; rfl
  | setColor r g b =>
    cases hd : reportDue s.cfg s.now s.regs
    · rw [exec_setColor_throttled s hd] at h; cases h; rfl
    · rw [exec_setColor_reported s hd] at h; cases h; rfl
  | setBright x => cases h; rfl
  | connect =>
    cases hc : s.regs.connected
    · rw [exec_connect_first s hc] at h; cases h; rfl
    · rw [exec_connect_again s hc] at h; cases h; rfl

/-- R167: nor does a POLL whose ramp timer does not fire. -/
theorem poll_keeps_out {s t : State} (h : exec .poll s = .next t) (hd : rampDue s.cfg s.now s.regs = false) :
    t.regs.out = s.regs.out := by
  rw [exec_poll, pollRegs_of_not_rampDue hd] at h
  cases h
  exact autoTick_out s.cfg s.now s.regs

/-- R167: an edge that is neither a reset edge nor a POLL whose ramp timer fires keeps the outputs. -/
theorem step_keeps_out {s t : State} (h : step s = .next t) (hr : nextReset s = false)
    (hf : nextRampFires s = false) : t.regs.out = s.regs.out := by
  rcases step_cases h with ⟨h1, _⟩ | ⟨_, _, _, rfl⟩ | ⟨_, i, op, hx⟩
  · simp [hr] at h1
  · rfl
  · by_cases hi : i = .poll
    · subst hi
      have hd : rampDue s.cfg (nextNow s) s.regs = false := by simpa [nextRampFires, op] using hf
      exact poll_keeps_out (s := atEdge s) hx hd
    · exact exec_keeps_out (s := atEdge s) hi hx

/-- R255: so does a run of such edges. -/
theorem after_keeps_out {n : Nat} {s t : State} (h : after n s = some t)
    (hr : everyEdge (fun u => nextReset u = false) n s) (hf : countEdges nextRampFires n s = 0) :
    t.regs.out = s.regs.out := by
  induction n generalizing s with
  | zero => cases h; rfl
  | succ n ih =>
    obtain ⟨u, hu, hut⟩ := after_succ_split h
    obtain ⟨hr0, hrn⟩ := everyEdge_succ hr hu
    rw [countEdges_succ hu, Nat.add_eq_zero_iff] at hf
    obtain ⟨hf0, hfn⟩ := hf
    have hquiet : nextRampFires s = false := by simpa using hf0
    exact (ih hut hrn hfn).trans (step_keeps_out hu hr0 hquiet)

/-- R166: with the light off a POLL whose ramp timer fires writes zeros. -/
theorem poll_out_off {s u : State} (h : exec .poll s = .next u) (hd : rampDue s.cfg s.now s.regs = true)
    (hp : s.regs.power = false) : u.regs.out = ⟨0, 0, 0⟩ := by
  rw [poll_out_of_rampDue h hd]
  simp [Rgb.map, outputLevel_off hp]

/-- Settles O27: runs by induction on their edges (`after_keeps_out`), commands by `exec_keeps_out`; the POLL after
SETPOWER 0 finds `power = 0` and writes zeros. -/
theorem outputsLagUntilNextFiring : Obligations.OutputsLagUntilNextFiring := by
  refine ⟨fun n s t => after_keeps_out, fun i s t => exec_keeps_out, fun s t u now ht hd hu => ?_⟩
  have hpower : t.regs.power = false := by
    rw [exec_setPower] at ht
    cases ht
    rfl
  rw [step_present_op decode_pollWord] at hu
  exact poll_out_off hu hd hpower

end Sys2Proof.Machine
end


section
/-! PROOF. Encoding and decoding (spec/30_encoding.md R72 to R81): an instruction's fields, and a word from its fields. -/

namespace Sys2Proof.Machine

/-- The opcode of an instruction's word (R74 to R77, R79). -/
def opcodeByte : Instr → Byte
  | .poll => 0
  | .setPower _ => 1
  | .setColor _ _ _ => 2
  | .setBright _ => 3
  | .connect => 4

/-- The field `A` of an instruction's word. -/
def operandA : Instr → Half
  | .poll => 0
  | .setPower v => (BitVec.ofBool v).setWidth 16
  | .setColor red _ _ => red
  | .setBright value => value
  | .connect => 0

/-- The field `B` of an instruction's word. -/
def operandB : Instr → Half
  | .setColor _ green _ => green
  | _ => 0

/-- The field `C` of an instruction's word. -/
def operandC : Instr → Half
  | .setColor _ _ blue => blue
  | _ => 0

/-- R72: a word as the sum of its five fields. -/
theorem toNat_eq_sum_fields (w : Word) : w.toNat = (fieldOpcode w).toNat * 2 ^ 56 +
    (fieldReserved w).toNat * 2 ^ 48 + (fieldA w).toNat * 2 ^ 32 + (fieldB w).toNat * 2 ^ 16 + (fieldC w).toNat := by
  rw [fieldOpcode_toNat, fieldReserved_toNat, fieldA_toNat, fieldB_toNat, fieldC_toNat]
  omega

/-- R72: a word is determined by its five fields. -/
theorem word_ext_fields {v w : Word} (ho : fieldOpcode v = fieldOpcode w) (hr : fieldReserved v = fieldReserved w)
    (ha : fieldA v = fieldA w) (hb : fieldB v = fieldB w) (hc : fieldC v = fieldC w) : v = w := by
  apply BitVec.eq_of_toNat_eq
  rw [toNat_eq_sum_fields v, toNat_eq_sum_fields w, ho, hr, ha, hb, hc]



/-- A field shifted to its place is read back there. -/
theorem extractLsb'_placed {n k : Nat} (x : BitVec n) (h : k + n ≤ 64) :
    (x.setWidth 64 <<< k).extractLsb' k n = x := by
  apply BitVec.eq_of_getLsbD_eq
  intro j hj
  have h1 : k + j < 64 := by omega
  simp [hj, h1]

/-- Elsewhere a shifted field reads 0. -/
theorem extractLsb'_placed_elsewhere {n k a m : Nat} (x : BitVec n) (h : a + m ≤ k ∨ k + n ≤ a) :
    (x.setWidth 64 <<< k).extractLsb' a m = 0 := by
  apply BitVec.eq_of_getLsbD_eq
  intro j hj
  rcases h with h | h
  · have h1 : a + j < k := by omega
    simp [h1]
  · have h1 : x.getLsbD (a + j - k) = false := BitVec.getLsbD_of_ge x _ (by omega)
    simp [h1]

/-- The word of an instruction, each operand shifted to its place. -/
theorem encode_eq_placed (i : Instr) : encode i = (opcodeByte i).setWidth 64 <<< 56 |||
    (operandA i).setWidth 64 <<< 32 ||| (operandB i).setWidth 64 <<< 16 ||| (operandC i).setWidth 64 <<< 0 := by
  cases i with
  | poll => rfl
  | setPower v => cases v <;> rfl
  | setColor red green blue => simp [encode, opcodeByte, operandA, operandB, operandC]
  | setBright value => simp [encode, opcodeByte, operandA, operandB, operandC]
  | connect => rfl

section
variable (i : Instr)

@[simp] theorem fieldOpcode_encode : fieldOpcode (encode i) = opcodeByte i := by
  simp (disch := decide) [fieldOpcode, encode_eq_placed, BitVec.extractLsb'_or, extractLsb'_placed,
    extractLsb'_placed_elsewhere, -BitVec.shiftLeft_zero]

@[simp] theorem fieldReserved_encode : fieldReserved (encode i) = 0 := by
  simp (disch := decide) [fieldReserved, encode_eq_placed, BitVec.extractLsb'_or, extractLsb'_placed_elsewhere,
    -BitVec.shiftLeft_zero]

@[simp] theorem fieldA_encode : fieldA (encode i) = operandA i := by
  simp (disch := decide) [fieldA, encode_eq_placed, BitVec.extractLsb'_or, extractLsb'_placed,
    extractLsb'_placed_elsewhere, -BitVec.shiftLeft_zero]

@[simp] theorem fieldB_encode : fieldB (encode i) = operandB i := by
  simp (disch := decide) [fieldB, encode_eq_placed, BitVec.extractLsb'_or, extractLsb'_placed,
    extractLsb'_placed_elsewhere, -BitVec.shiftLeft_zero]

@[simp] theorem fieldC_encode : fieldC (encode i) = operandC i := by
  simp (disch := decide) [fieldC, encode_eq_placed, BitVec.extractLsb'_or, extractLsb'_placed,
    extractLsb'_placed_elsewhere, -BitVec.shiftLeft_zero]

/-- R74 to R77, R79: the word of an instruction as a number. -/
theorem encode_toNat : (encode i).toNat = (opcodeByte i).toNat * 2 ^ 56 + (operandA i).toNat * 2 ^ 32 +
    (operandB i).toNat * 2 ^ 16 + (operandC i).toNat := by
  simp [toNat_eq_sum_fields (encode i)]

/-- R78: SETPOWER's operand as a number. -/
@[simp] theorem operandA_setPower_toNat (v : Bool) : (operandA (.setPower v)).toNat = v.toNat := by
  cases v <;> rfl

theorem opcodeByte_le : (opcodeByte i).toNat ≤ 4 := by
  cases i <;> simp [opcodeByte]

/-- R81: the case of an instruction's own opcode takes its own operands. -/
theorem decodeOperands_operands : decodeOperands (opcodeByte i) (operandA i) (operandB i) (operandC i) = .op i := by
  cases i with
  | setPower v => cases v <;> rfl
  | poll => rfl
  | setColor red green blue => rfl
  | setBright value => rfl
  | connect => rfl

end

/-- A half word with `A[15:1] = 0` is its lowest bit. -/
theorem eq_operandA_setPower {a : Half} (h : a.extractLsb' 1 15 = 0) : operandA (.setPower (a.getLsbD 0)) = a := by
  have hn : a.toNat / 2 % 2 ^ 15 = 0 := by
    simpa [BitVec.extractLsb'_toNat, Nat.shiftRight_eq_div_pow] using congrArg BitVec.toNat h
  have h01 : a = 0 ∨ a = 1 := by bv_omega
  rcases h01 with rfl | rfl <;> rfl

/-- R81: nothing but its own opcode and operands gives an instruction. -/
theorem operands_of_decodeOperands {op : Byte} {a b c : Half} {i : Instr} (hop : ¬ 4 < op)
    (h : decodeOperands op a b c = .op i) :
    opcodeByte i = op ∧ operandA i = a ∧ operandB i = b ∧ operandC i = c := by
  unfold decodeOperands at h
  split_ifs at h with h0 hz h1 hz h2 h3 hz hz <;> cases h
  · simp only [not_or, not_not] at hz
    obtain ⟨rfl, rfl, rfl⟩ := hz
    exact ⟨h0.symm, rfl, rfl, rfl⟩
  · simp only [not_or, not_not] at hz
    obtain ⟨ha, rfl, rfl⟩ := hz
    exact ⟨h1.symm, eq_operandA_setPower ha, rfl, rfl⟩
  · exact ⟨h2.symm, rfl, rfl, rfl⟩
  · simp only [not_or, not_not] at hz
    obtain ⟨rfl, rfl⟩ := hz
    exact ⟨h3.symm, rfl, rfl, rfl⟩
  · simp only [not_or, not_not] at hz
    obtain ⟨rfl, rfl, rfl⟩ := hz
    have h4 : op = 4 := by bv_omega
    exact ⟨h4.symm, rfl, rfl, rfl⟩

/-- R72: the limit of the assigned opcodes, on the field and on the number. -/
theorem four_lt_fieldOpcode_iff (w : Word) : 4 < fieldOpcode w ↔ 4 < opcodeOf w := by
  rw [BitVec.lt_def, fieldOpcode_toNat]
  rfl

/-- R81: an opcode up to `0x04` with a zero reserved byte goes on to its operands. -/
theorem decode_of_fields {w : Word} (ho : opcodeOf w ≤ 4) (hr : fieldReserved w = 0) :
    decode w = decodeOperands (fieldOpcode w) (fieldA w) (fieldB w) (fieldC w) := by
  rw [decode, if_neg (mt (four_lt_fieldOpcode_iff w).mp ho.not_gt), if_neg (not_not_intro hr)]

/-- R72: the opcode of an instruction's word, as a number. -/
@[simp] theorem opcodeOf_encode (i : Instr) : opcodeOf (encode i) = (opcodeByte i).toNat := by
  rw [opcodeOf, ← fieldOpcode_toNat, fieldOpcode_encode]

/-- R72, R81: the word of an instruction decodes to it. -/
@[simp] theorem decode_encode (i : Instr) : decode (encode i) = .op i := by
  rw [decode_of_fields (by simpa using opcodeByte_le i) (by simp)]
  simp [decodeOperands_operands]

/-- R80: an opcode above `0x04` is rejected as such, before any must-be-zero bit is looked at. -/
theorem decode_illegal {w : Word} (h : 4 < opcodeOf w) : decode w = .reject .illegalOpcode :=
  if_pos ((four_lt_fieldOpcode_iff w).mpr h)

/-- R80: a non-zero reserved byte is rejected under every assigned opcode. -/
theorem decode_reserved {w : Word} (ho : opcodeOf w ≤ 4) (hr : fieldReserved w ≠ 0) :
    decode w = .reject .reservedNonzero := by
  rw [decode, if_neg (mt (four_lt_fieldOpcode_iff w).mp ho.not_gt), if_pos hr]

/-- R81: an accepted word is the word of the instruction it stands for. -/
theorem encode_of_decode {w : Word} {i : Instr} (h : decode w = .op i) : encode i = w := by
  rcases Nat.lt_or_ge 4 (opcodeOf w) with ho | ho
  · simp [decode_illegal ho] at h
  · by_cases hr : fieldReserved w = 0
    · rw [decode_of_fields ho hr] at h
      obtain ⟨eo, ea, eb, ec⟩ := operands_of_decodeOperands (mt (four_lt_fieldOpcode_iff w).mp ho.not_gt) h
      exact word_ext_fields (by simp [eo]) (by simp [hr]) (by simp [ea]) (by simp [eb]) (by simp [ec])
    · simp [decode_reserved ho hr] at h

/-- Decoding and encoding are inverse to each other. -/
theorem decode_eq_op_iff {w : Word} {i : Instr} : decode w = .op i ↔ encode i = w :=
  ⟨encode_of_decode, fun h => h ▸ decode_encode i⟩

/-- Settles O1: the fields of an instruction's word are its opcode and operands, and the case of that opcode takes them. -/
theorem decodeOfEncodeIsIdentity : Obligations.DecodeOfEncodeIsIdentity := decode_encode

/-- Settles O2: each case of the decoder fixes all five fields, and the fields fix the word. -/
theorem acceptedWordIsItsEncoding : Obligations.AcceptedWordIsItsEncoding := fun _ _ => encode_of_decode

end Sys2Proof.Machine
end

section
/-! PROOF. The must-be-zero bits (spec/30_encoding.md R73, R80) and the two rejections (spec/60_exceptions.md R200, R201). -/

namespace Sys2Proof.Machine

theorem byte_and_full (x : Byte) : x &&& 0xFF#8 = x := BitVec.and_allOnes

theorem half_and_full (x : Half) : x &&& 0xFFFF#16 = x := BitVec.and_allOnes

/-- A half word has `A[15:1] = 0` exactly when its bits other than the lowest are 0. -/
theorem and_eq_zero_iff_upper (a : Half) : a &&& 0xFFFE = 0 ↔ a.extractLsb' 1 15 = 0 := by
  refine ⟨fun h => ?_, and_eq_zero_of_upper_eq_zero⟩
  have hx : a.extractLsb' 1 15 &&& BitVec.allOnes 15 = 0 := by
    simpa [BitVec.extractLsb'_and] using congrArg (BitVec.extractLsb' 1 15) h
  rwa [BitVec.and_allOnes] at hx

/-- R72: a word meets a mask and a match when each of its fields does. -/
theorem and_eq_iff_fields (w m p : Word) : w &&& m = p ↔
    fieldOpcode w &&& fieldOpcode m = fieldOpcode p ∧ fieldReserved w &&& fieldReserved m = fieldReserved p ∧
    fieldA w &&& fieldA m = fieldA p ∧ fieldB w &&& fieldB m = fieldB p ∧ fieldC w &&& fieldC m = fieldC p := by
  simp only [fieldOpcode, fieldReserved, fieldA, fieldB, fieldC, ← BitVec.extractLsb'_and]
  constructor
  · intro h
    simp [h]
  · rintro ⟨ho, hr, ha, hb, hc⟩
    exact word_ext_fields ho hr ha hb hc

/-- The must-be-zero bits of POLL and CONNECT are all bits but the opcode. -/
theorem and_allOperands_eq_zero_iff (w : Word) : w &&& 0x00FFFFFFFFFFFFFF = 0 ↔
    fieldReserved w = 0 ∧ fieldA w = 0 ∧ fieldB w = 0 ∧ fieldC w = 0 := by
  rw [and_eq_iff_fields]
  change fieldOpcode w &&& 0#8 = 0 ∧ fieldReserved w &&& 0xFF#8 = 0 ∧ fieldA w &&& 0xFFFF#16 = 0 ∧
    fieldB w &&& 0xFFFF#16 = 0 ∧ fieldC w &&& 0xFFFF#16 = 0 ↔ _
  simp [byte_and_full, half_and_full]

theorem and_setPowerMask_eq_zero_iff (w : Word) : w &&& 0x00FFFFFEFFFFFFFF = 0 ↔
    fieldReserved w = 0 ∧ (fieldA w).extractLsb' 1 15 = 0 ∧ fieldB w = 0 ∧ fieldC w = 0 := by
  rw [and_eq_iff_fields, ← and_eq_zero_iff_upper]
  change fieldOpcode w &&& 0#8 = 0 ∧ fieldReserved w &&& 0xFF#8 = 0 ∧ fieldA w &&& 0xFFFE = 0 ∧
    fieldB w &&& 0xFFFF#16 = 0 ∧ fieldC w &&& 0xFFFF#16 = 0 ↔ _
  simp [byte_and_full, half_and_full]

theorem and_setColorMask_eq_zero_iff (w : Word) : w &&& 0x00FF000000000000 = 0 ↔ fieldReserved w = 0 := by
  rw [and_eq_iff_fields]
  change fieldOpcode w &&& 0#8 = 0 ∧ fieldReserved w &&& 0xFF#8 = 0 ∧ fieldA w &&& 0#16 = 0 ∧
    fieldB w &&& 0#16 = 0 ∧ fieldC w &&& 0#16 = 0 ↔ _
  simp [byte_and_full]

theorem and_setBrightMask_eq_zero_iff (w : Word) : w &&& 0x00FF0000FFFFFFFF = 0 ↔
    fieldReserved w = 0 ∧ fieldB w = 0 ∧ fieldC w = 0 := by
  rw [and_eq_iff_fields]
  change fieldOpcode w &&& 0#8 = 0 ∧ fieldReserved w &&& 0xFF#8 = 0 ∧ fieldA w &&& 0#16 = 0 ∧
    fieldB w &&& 0xFFFF#16 = 0 ∧ fieldC w &&& 0xFFFF#16 = 0 ↔ _
  simp [byte_and_full, half_and_full]

/-- R73: the word of an instruction has no must-be-zero bit set. -/
theorem encode_and_mustBeZero (i : Instr) : encode i &&& mustBeZero (opcodeOf (encode i)) = 0 := by
  rw [opcodeOf_encode]
  cases i with
  | poll => rfl
  | setPower v => cases v <;> rfl
  | setColor r g b => exact (and_setColorMask_eq_zero_iff _).mpr (by simp)
  | setBright x => exact (and_setBrightMask_eq_zero_iff _).mpr (by simp [operandB, operandC])
  | connect => rfl

/-- R73, R81: an assigned opcode without a must-be-zero bit set is accepted. -/
theorem exists_decode_op_of_mustBeZero {w : Word} (ho : opcodeOf w ≤ 4) (hz : w &&& mustBeZero (opcodeOf w) = 0) :
    ∃ i, decode w = .op i := by
  interval_cases hop : opcodeOf w
  · obtain ⟨hr, ha, hb, hc⟩ := (and_allOperands_eq_zero_iff w).mp hz
    rw [decode_of_fields (by omega) hr, (fieldOpcode_eq_iff w 0).mpr hop, ha, hb, hc]
    exact ⟨.poll, rfl⟩
  · obtain ⟨hr, ha, hb, hc⟩ := (and_setPowerMask_eq_zero_iff w).mp hz
    rw [decode_of_fields (by omega) hr, (fieldOpcode_eq_iff w 1).mpr hop, ← eq_operandA_setPower ha, hb, hc]
    exact ⟨.setPower _, decodeOperands_operands (.setPower _)⟩
  · have hr := (and_setColorMask_eq_zero_iff w).mp hz
    rw [decode_of_fields (by omega) hr, (fieldOpcode_eq_iff w 2).mpr hop]
    exact ⟨.setColor _ _ _, rfl⟩
  · obtain ⟨hr, hb, hc⟩ := (and_setBrightMask_eq_zero_iff w).mp hz
    rw [decode_of_fields (by omega) hr, (fieldOpcode_eq_iff w 3).mpr hop, hb, hc]
    exact ⟨.setBright _, rfl⟩
  · obtain ⟨hr, ha, hb, hc⟩ := (and_allOperands_eq_zero_iff w).mp hz
    rw [decode_of_fields (by omega) hr, (fieldOpcode_eq_iff w 4).mpr hop, ha, hb, hc]
    exact ⟨.connect, rfl⟩

/-- R73, R81: exactly the words of an assigned opcode without a must-be-zero bit set are accepted. -/
theorem exists_decode_op_iff (w : Word) :
    (∃ i, decode w = .op i) ↔ opcodeOf w ≤ 4 ∧ w &&& mustBeZero (opcodeOf w) = 0 := by
  refine ⟨fun ⟨i, hi⟩ => ?_, fun ⟨ho, hz⟩ => exists_decode_op_of_mustBeZero ho hz⟩
  rw [← encode_of_decode hi]
  exact ⟨by simpa using opcodeByte_le i, encode_and_mustBeZero i⟩

/-- R80: an assigned opcode is never rejected as illegal. -/
theorem decode_ne_illegal {w : Word} (ho : opcodeOf w ≤ 4) : decode w ≠ .reject .illegalOpcode := by
  intro h
  by_cases hr : fieldReserved w = 0
  · rw [decode_of_fields ho hr, decodeOperands] at h
    split_ifs at h <;> cases h
  · simp [decode_reserved ho hr] at h

/-- R80: an assigned opcode with a must-be-zero bit set is rejected for that bit. -/
theorem decode_reserved_of_mustBeZero {w : Word} (ho : opcodeOf w ≤ 4) (hz : w &&& mustBeZero (opcodeOf w) ≠ 0) :
    decode w = .reject .reservedNonzero := by
  cases hd : decode w with
  | op i =>
    obtain ⟨_, hz'⟩ := (exists_decode_op_iff w).mp ⟨i, hd⟩
    exact absurd hz' hz
  | reject why =>
    cases why with
    | illegalOpcode => exact absurd hd (decode_ne_illegal ho)
    | reservedNonzero => rfl

/-- Settles O9: the three cases of a word (`decode_illegal`, `decode_reserved_of_mustBeZero`, `exists_decode_op_iff`), and
that every operation ends with status OK. -/
theorem rejectedWordChangesNothing : Obligations.RejectedWordChangesNothing := by
  refine fun s w now => ⟨fun ho => step_present_reject (decode_illegal ho) s now,
    fun ho hz => step_present_reject (decode_reserved_of_mustBeZero ho hz) s now, fun ho hz => ?_⟩
  obtain ⟨i, hi⟩ := exists_decode_op_of_mustBeZero ho hz
  rw [step_present_op hi]
  exact exec_ok i _

/-- R201: the status of a presented word, from its decoding. -/
theorem portStatus_present {s t : State} {w : Word} {now : Nat} (h : step (s.present w now) = .next t) :
    (4 < opcodeOf w ∧ portStatus t = 1 ∧ t.events = .quiet) ∨
    (opcodeOf w ≤ 4 ∧ w &&& mustBeZero (opcodeOf w) ≠ 0 ∧ portStatus t = 2 ∧ t.events = .quiet) ∨
    (opcodeOf w ≤ 4 ∧ w &&& mustBeZero (opcodeOf w) = 0 ∧ portStatus t = 0) := by
  rcases Nat.lt_or_ge 4 (opcodeOf w) with ho | ho
  · rw [step_present_reject (decode_illegal ho)] at h
    cases h
    exact .inl ⟨ho, rfl, rfl⟩
  · by_cases hz : w &&& mustBeZero (opcodeOf w) = 0
    · obtain ⟨i, hi⟩ := exists_decode_op_of_mustBeZero ho hz
      rw [step_present_op hi] at h
      obtain ⟨_, _, _, hok⟩ := exec_frame h
      exact .inr (.inr ⟨ho, hz, by rw [portStatus, hok]; rfl⟩)
    · rw [step_present_reject (decode_reserved_of_mustBeZero ho hz)] at h
      cases h
      exact .inr (.inl ⟨ho, hz, rfl, rfl⟩)

/-- Settles O10: the status of every presented word (`portStatus_present`) in its three exclusive cases. -/
theorem statusCodesReported : Obligations.StatusCodesReported := by
  refine ⟨rfl, rfl, rfl, fun st => by cases st <;> decide, exec_ok, fun s w now t h => ?_⟩
  rcases portStatus_present h with ⟨ho, hst, hev⟩ | ⟨ho, hz, hst, hev⟩ | ⟨ho, hz, hst⟩
  · simp [hst, ho, hev, Events.quiet]
  · exact ⟨by simp [hst, ho.not_gt], by simp only [hst, ho, hz, ne_eq, not_false_eq_true, and_self], fun _ => hev⟩
  · simp [hst, ho.not_gt, hz]

end Sys2Proof.Machine
end

section
/-! PROOF. The rows of the opcode table and the decode procedure (spec/30_encoding.md R73 to R81), from a word's fields. -/

namespace Sys2Proof.Machine

/-- R72: a word is the word of an instruction when its fields are the instruction's. -/
theorem encode_eq_iff_fields (i : Instr) (w : Word) : encode i = w ↔
    fieldOpcode w = opcodeByte i ∧ fieldReserved w = 0 ∧ fieldA w = operandA i ∧ fieldB w = operandB i ∧
    fieldC w = operandC i := by
  constructor
  · rintro rfl
    simp
  · rintro ⟨ho, hr, ha, hb, hc⟩
    exact word_ext_fields (by simp [ho]) (by simp [hr]) (by simp [ha]) (by simp [hb]) (by simp [hc])

/-- R75: SETPOWER's operand field is its bit and nothing else. -/
theorem eq_operandA_setPower_iff (a : Half) (v : Bool) :
    a = operandA (.setPower v) ↔ a &&& 0xFFFE = 0 ∧ a.getLsbD 0 = v := by
  constructor
  · rintro rfl
    cases v <;> exact ⟨rfl, rfl⟩
  · rintro ⟨ha, rfl⟩
    exact (eq_operandA_setPower ((and_eq_zero_iff_upper a).mp ha)).symm

/-- R72: bit 32 of a word is the lowest bit of `A`. -/
theorem fieldA_getLsbD_zero (w : Word) : (fieldA w).getLsbD 0 = w.getLsbD 32 := by simp [fieldA]

section
variable (w : Word)

/-- R74. -/
theorem decode_poll_iff : decode w = .op .poll ↔ w &&& 0xFFFFFFFFFFFFFFFF = 0x0000000000000000 := by
  have hall : w &&& 0xFFFFFFFFFFFFFFFF = w := BitVec.and_allOnes
  rw [decode_eq_op_iff, hall, eq_comm]
  rfl

/-- R79. -/
theorem decode_connect_iff : decode w = .op .connect ↔ w &&& 0xFFFFFFFFFFFFFFFF = 0x0400000000000000 := by
  have hall : w &&& 0xFFFFFFFFFFFFFFFF = w := BitVec.and_allOnes
  rw [decode_eq_op_iff, hall, eq_comm]
  rfl

/-- R75. -/
theorem decode_setPower_iff (v : Bool) : decode w = .op (.setPower v) ↔
    w &&& 0xFFFFFFFEFFFFFFFF = 0x0100000000000000 ∧ w.getLsbD 32 = v := by
  rw [decode_eq_op_iff, encode_eq_iff_fields, eq_operandA_setPower_iff, fieldA_getLsbD_zero, and_eq_iff_fields]
  change _ ↔ (fieldOpcode w &&& 0xFF#8 = opcodeByte (.setPower v) ∧ fieldReserved w &&& 0xFF#8 = 0 ∧
    fieldA w &&& 0xFFFE = 0 ∧ fieldB w &&& 0xFFFF#16 = operandB (.setPower v) ∧
    fieldC w &&& 0xFFFF#16 = operandC (.setPower v)) ∧ _
  simp only [byte_and_full, half_and_full]
  tauto

/-- R76. -/
theorem decode_setColor_iff (r g b : Half) : decode w = .op (.setColor r g b) ↔
    w &&& 0xFFFF000000000000 = 0x0200000000000000 ∧ fieldA w = r ∧ fieldB w = g ∧ fieldC w = b := by
  rw [decode_eq_op_iff, encode_eq_iff_fields, and_eq_iff_fields]
  change _ ↔ (fieldOpcode w &&& 0xFF#8 = opcodeByte (.setColor r g b) ∧ fieldReserved w &&& 0xFF#8 = 0 ∧
    fieldA w &&& 0#16 = 0#16 ∧ fieldB w &&& 0#16 = 0#16 ∧ fieldC w &&& 0#16 = 0#16) ∧ _
  simp only [byte_and_full, BitVec.and_zero, and_true, and_assoc]
  rfl

/-- R77. -/
theorem decode_setBright_iff (x : Half) : decode w = .op (.setBright x) ↔
    w &&& 0xFFFF0000FFFFFFFF = 0x0300000000000000 ∧ fieldA w = x := by
  rw [decode_eq_op_iff, encode_eq_iff_fields, and_eq_iff_fields]
  change _ ↔ (fieldOpcode w &&& 0xFF#8 = opcodeByte (.setBright x) ∧ fieldReserved w &&& 0xFF#8 = 0 ∧
    fieldA w &&& 0#16 = 0#16 ∧ fieldB w &&& 0xFFFF#16 = operandB (.setBright x) ∧
    fieldC w &&& 0xFFFF#16 = operandC (.setBright x)) ∧ fieldA w = operandA (.setBright x)
  simp only [byte_and_full, half_and_full, BitVec.and_zero, true_and]
  tauto

end

/-- R75: a SETPOWER word with a bit of `A[15:1]` set has a must-be-zero bit set. -/
theorem and_setPowerMask_ne_zero {w : Word} (h : w.extractLsb' 33 15 ≠ 0) : w &&& 0x00FFFFFEFFFFFFFF ≠ 0 := by
  intro hz
  obtain ⟨_, ha, _, _⟩ := (and_setPowerMask_eq_zero_iff w).mp hz
  apply h
  rw [← ha]
  apply BitVec.eq_of_getLsbD_eq
  intro k hk
  have hk' : 1 + k < 16 := by omega
  simp [fieldA, hk, hk', ← Nat.add_assoc]

/-- Settles O3: each row says, field by field, what the decoder's case says; the formulas are `encode_toNat`. -/
theorem rowsByMatchAndMask : Obligations.RowsByMatchAndMask := by
  refine ⟨fun w => ⟨decode_poll_iff w, decode_setPower_iff w, decode_setColor_iff w, decode_setBright_iff w,
    decode_connect_iff w, fun ho h => decode_setPower_reserved ho (and_setPowerMask_ne_zero h)⟩,
    rfl, fun v => ?_, fun r g b => ?_, fun x => ?_, rfl⟩ <;> rw [encode_toNat]
  · simp [opcodeByte, operandB, operandC]
  · simp [opcodeByte, operandA, operandB, operandC]
  · simp [opcodeByte, operandA, operandB, operandC]

/-- R78: the bits above SETPOWER's operand, as a number. -/
theorem upper_ne_zero_iff (a : Half) : a.extractLsb' 1 15 ≠ 0 ↔ ¬ a.toNat / 2 = 0 := by
  have hn : (a.extractLsb' 1 15).toNat = a.toNat / 2 := by
    have := a.isLt
    simp [BitVec.extractLsb'_toNat, Nat.shiftRight_eq_div_pow]
    omega
  rw [ne_eq, ← BitVec.toNat_inj, hn]
  rfl

theorem half_ne_zero_iff (a : Half) : a ≠ 0 ↔ ¬ a.toNat = 0 := by
  rw [ne_eq, ← BitVec.toNat_inj]
  rfl

section
variable (a b c : Half)

/-! R81, the five cases over the operands as numbers. -/

theorem decodeOperands_poll : decodeOperands 0 a b c =
    if a.toNat = 0 ∧ b.toNat = 0 ∧ c.toNat = 0 then .op .poll else .reject .reservedNonzero := by
  simp only [decodeOperands, half_ne_zero_iff, ← not_and_or, ite_not, if_true]

theorem decodeOperands_setPower : decodeOperands 1 a b c =
    if a.toNat / 2 = 0 ∧ b.toNat = 0 ∧ c.toNat = 0 then .op (.setPower (decide (a.toNat % 2 = 1)))
    else .reject .reservedNonzero := by
  have hbit : a.getLsbD 0 = decide (a.toNat % 2 = 1) := by simp [BitVec.getLsbD, Nat.testBit_zero]
  have h10 : (1 : Byte) ≠ 0 := by decide
  simp only [decodeOperands, upper_ne_zero_iff, half_ne_zero_iff, ← not_and_or, ite_not, if_true, hbit, if_neg h10]

theorem decodeOperands_setColor : decodeOperands 2 a b c = .op (.setColor a b c) := rfl

theorem decodeOperands_setBright : decodeOperands 3 a b c =
    if b.toNat = 0 ∧ c.toNat = 0 then .op (.setBright a) else .reject .reservedNonzero := by
  have h30 : (3 : Byte) ≠ 0 := by decide
  have h31 : (3 : Byte) ≠ 1 := by decide
  have h32 : (3 : Byte) ≠ 2 := by decide
  simp only [decodeOperands, half_ne_zero_iff, ← not_and_or, ite_not, if_true, if_neg h30, if_neg h31, if_neg h32]

theorem decodeOperands_connect : decodeOperands 4 a b c =
    if a.toNat = 0 ∧ b.toNat = 0 ∧ c.toNat = 0 then .op .connect else .reject .reservedNonzero := by
  simp only [decodeOperands, half_ne_zero_iff, ← not_and_or, ite_not]
  rfl

end

/-- R81: the operand case of a word, by its opcode as a number. -/
theorem decode_of_opcode {w : Word} {op : Byte} (ho : w.toNat / 2 ^ 56 = op.toNat) (h4 : op.toNat ≤ 4)
    (hr : w.toNat / 2 ^ 48 % 2 ^ 8 = 0) : decode w = decodeOperands op (fieldA w) (fieldB w) (fieldC w) := by
  have hres : fieldReserved w = 0 := by
    rw [← BitVec.toNat_inj, fieldReserved_toNat]
    exact hr
  rw [decode_of_fields (h4.trans' ho.le) hres, (fieldOpcode_eq_iff w op).mpr ho]

/-- Settles O4: a word's fields are its digits; the decoder's cases are read over them. -/
theorem decodeProcedureCaseByCase : Obligations.DecodeProcedureCaseByCase := by
  intro w
  simp only [← fieldA_toNat, ← fieldB_toNat, ← fieldC_toNat, BitVec.ofNat_toNat, BitVec.setWidth_eq]
  refine ⟨decode_illegal, fun ho hr => decode_reserved ho fun h => hr ?_, fun ho hr => ?_, fun ho hr => ?_,
    fun ho hr => ?_, fun ho hr => ?_, fun ho hr => ?_⟩
  · rw [← fieldReserved_toNat, h]
    rfl
  · rw [decode_of_opcode (op := 0) ho (by decide) hr, decodeOperands_poll]
  · rw [decode_of_opcode (op := 1) ho (by decide) hr, decodeOperands_setPower]
  · rw [decode_of_opcode (op := 2) ho (by decide) hr, decodeOperands_setColor]
  · rw [decode_of_opcode (op := 3) ho (by decide) hr, decodeOperands_setBright]
  · rw [decode_of_opcode (op := 4) ho (by decide) hr, decodeOperands_connect]

/-- Settles O5: the accepted words are encodings (`decode_encode`), the rejected ones are evaluated. -/
theorem sampleWordsDecode : Obligations.SampleWordsDecode :=
  ⟨decode_encode .poll, decode_encode (.setPower true), decode_encode (.setPower false),
    decode_encode (.setColor 10 20 30), decode_encode (.setColor 65535 65535 65535), decode_encode (.setBright 128),
    decode_encode .connect, by decide, by decide⟩

end Sys2Proof.Machine
end

section
/-! PROOF. The assembler (spec/30_encoding.md R90, R91) and the saturation of operands (R78). -/

namespace Sys2Proof.Machine

/-- R90: the word of an instruction, written as its formula. -/
theorem encode_eq_ofNat {i : Instr} {n : Nat} (h : (opcodeByte i).toNat * 2 ^ 56 + (operandA i).toNat * 2 ^ 32 +
    (operandB i).toNat * 2 ^ 16 + (operandC i).toNat = n) : encode i = BitVec.ofNat 64 n := by
  rw [← h, ← encode_toNat, BitVec.ofNat_toNat, BitVec.setWidth_eq]

/-- R90: a line out of range has no word. -/
theorem assemble_of_not_wf {a : AsmOp} (h : a.wf = false) : assemble a = none := by
  simp [assemble, AsmOp.toInstr, h]

theorem wf_of_assemble {a : AsmOp} {w : Word} (h : assemble a = some w) : a.wf = true := by
  by_contra hn
  simp [assemble_of_not_wf (Bool.eq_false_of_not_eq_true hn)] at h

theorem assemble_setPower (v : Nat) : assemble (.setPower (.num v)) =
    if v ≤ 1 then some (BitVec.ofNat 64 (2 ^ 56 + v * 2 ^ 32)) else none := by
  split_ifs with h
  · interval_cases v <;> rfl
  · exact assemble_of_not_wf (by simpa [AsmOp.wf] using h)

theorem assemble_setColor (r g b : Nat) : assemble (.setColor r g b) =
    if r ≤ 65535 ∧ g ≤ 65535 ∧ b ≤ 65535 then
      some (BitVec.ofNat 64 (2 * 2 ^ 56 + r * 2 ^ 32 + g * 2 ^ 16 + b)) else none := by
  split_ifs with h
  · have hwf : (AsmOp.setColor r g b).wf = true := by simpa [AsmOp.wf, and_assoc] using h
    obtain ⟨hr, hg, hb⟩ := h
    rw [assemble, AsmOp.toInstr, if_pos hwf, Option.map_some, encode_eq_ofNat]
    simp [opcodeByte, operandA, operandB, operandC]
    omega
  · exact assemble_of_not_wf (by simpa [AsmOp.wf, ← not_and_or, and_assoc] using h)

theorem assemble_setBright (x : Nat) : assemble (.setBright x) =
    if x ≤ 65535 then some (BitVec.ofNat 64 (3 * 2 ^ 56 + x * 2 ^ 32)) else none := by
  split_ifs with h
  · have hwf : (AsmOp.setBright x).wf = true := by simpa [AsmOp.wf] using h
    rw [assemble, AsmOp.toInstr, if_pos hwf, Option.map_some, encode_eq_ofNat]
    simp [opcodeByte, operandA, operandB, operandC]
    omega
  · exact assemble_of_not_wf (by simpa [AsmOp.wf] using h)

/-- R91: the port cycle of a trace line. -/
theorem traceCycle_eq_some_iff (cfg : Config) (t : Nat) (a : AsmOp) (c : HostCycle) :
    traceCycle cfg ⟨t, a⟩ = some c ↔
      t < 2 ^ cfg.tw ∧ c.rst = false ∧ c.cmdValid = true ∧ c.now = t ∧ assemble a = some c.cmdWord := by
  unfold traceCycle TraceLine.wf
  constructor
  · intro h
    split_ifs at h with hwf
    obtain ⟨w, hw, rfl⟩ := Option.map_eq_some_iff.mp h
    exact ⟨by simpa using (Bool.and_eq_true_iff.mp hwf).1, rfl, rfl, rfl, hw⟩
  · rintro ⟨ht, hrst, hv, hn, ha⟩
    rw [if_pos (by simp [ht, wf_of_assemble ha])]
    cases c
    cases hrst; cases hv; cases hn
    simp [ha]

/-- Settles O6: the range checks guard the encoder, and each word is its formula. -/
theorem assemblerRefusesOutOfRange : Obligations.AssemblerRefusesOutOfRange :=
  ⟨assemble_setPower, rfl, rfl, assemble_setColor, assemble_setBright, rfl, rfl, traceCycle_eq_some_iff⟩

/-- Settles O7: `clamp8_toNat` says the saturation as a number; each operation's equation says where it is stored. -/
theorem operandsSaturate : Obligations.OperandsSaturate := by
  refine ⟨clamp8_toNat, by decide, by decide, fun n => ?_, fun r g b s t h => ?_, fun x s t h => ?_, fun v s t h => ?_⟩
  · rw [clamp8_toNat, BitVec.toNat_ofNat]
    omega
  · obtain ⟨_, htgt⟩ := exec_setColor_cur_tgt h
    rw [htgt]
    exact ⟨clamp8_toNat r, clamp8_toNat g, clamp8_toNat b⟩
  · cases h
    exact clamp8_toNat x
  · cases h
    rfl

end Sys2Proof.Machine
end

section
/-! PROOF. The invariant of spec/10_state.md R32: every step keeps it, and every run from reset meets it. -/

namespace Sys2Proof.Machine

/-- R183: the presented time fits the port, whatever number the host wrote. -/
theorem nextNow_lt {s : State} (h : s.now < 2 ^ s.cfg.tw) : nextNow s < 2 ^ s.cfg.tw := by
  unfold nextNow
  split
  · exact h
  · exact sampleTime_lt _ _

section
variable {cfg : Config} {s : Regs}

/-- R133: SETCOLOR that reports stores a sampled time in its stamp. -/
theorem Regs.Inv.update_reportLast {now : Nat} (h : s.Inv cfg) (hn : now < 2 ^ cfg.tw) :
    ({ s with reportLast := now } : Regs).Inv cfg :=
  { h with reportLastInRange := hn }

/-- R135: the guard is no part of the invariant. -/
theorem Regs.Inv.update_connected (h : s.Inv cfg) (b : Bool) : ({ s with connected := b } : Regs).Inv cfg :=
  { h with }

/-- R111: nor is the brightness. -/
theorem setBrightnessTarget_inv (v : Byte) (h : s.Inv cfg) : (setBrightnessTarget v s).Inv cfg :=
  { h with }

end

/-- Every edge keeps the invariant of the block's state, operation by operation. -/
theorem step_regs_inv {s t : State} (hs : s.Inv) (h : step s = .next t) : t.regs.Inv s.cfg := by
  have hnow : nextNow s < 2 ^ s.cfg.tw := nextNow_lt hs.nowInRange
  cases hr : nextReset s
  case true =>
    obtain ⟨e, _⟩ := step_reset h hr
    rw [e]
    exact Regs.reset_inv hs.config
  case false =>
    rcases step_effect h hr with ⟨_, e, _⟩ | ⟨_, e, _⟩ | ⟨v, _, e, _⟩ | ⟨r, g, b, _, _, e, _⟩ |
      ⟨r, g, b, _, _, e, _⟩ | ⟨x, _, e, _⟩ | ⟨_, _, e, _⟩ | ⟨_, _, e, _⟩ <;> rw [e]
    · exact hs.regs
    · exact pollRegs_inv hs.config hnow hs.regs
    · exact setPowerAction_inv v hs.regs
    · exact (manualColor_inv _ hs.regs).update_reportLast hnow
    · exact manualColor_inv _ hs.regs
    · exact setBrightnessTarget_inv _ hs.regs
    · exact (setPowerAction_inv true hs.regs).update_connected true
    · exact hs.regs

/-- Every edge keeps the invariant of the machine. -/
theorem step_inv {s t : State} (hs : s.Inv) (h : step s = .next t) : t.Inv := by
  obtain ⟨hcfg, _⟩ := step_frame h
  refine ⟨hcfg ▸ hs.config, hcfg ▸ step_regs_inv hs h, ?_⟩
  rw [hcfg]
  rcases step_now h with ⟨_, e⟩ | ⟨_, e⟩ <;> rw [e]
  · exact hs.nowInRange
  · exact nextNow_lt hs.nowInRange

/-- The machine meets the invariant right after reset, whatever the host then presents. -/
theorem resetFor_inv {cfg : Config} (h : cfg.WF) (host : List HostCycle) :
    ({ State.resetFor cfg with host := host } : State).Inv :=
  ⟨h, Regs.reset_inv h, Nat.two_pow_pos _⟩

/-- Every reachable state of a well-formed configuration has that configuration and meets the invariant. -/
theorem inv_of_reachable {cfg : Config} (hc : cfg.WF) {s : State} (h : Reachable cfg s) : s.cfg = cfg ∧ s.Inv := by
  induction h with
  | start host => exact ⟨rfl, resetFor_inv hc host⟩
  | step _ hst ih =>
    obtain ⟨hcfg, hinv⟩ := ih
    exact ⟨(step_frame hst).1.trans hcfg, step_inv hinv hst⟩

/-- Settles O59: each element by the operation that writes it (`step_regs_inv`), the sampled time by the port's width. -/
theorem stepKeepsInvariant : Obligations.StepKeepsInvariant := fun _ _ => step_inv

/-- Settles O60: by induction on the run, from `resetFor_inv` and `step_inv`. -/
theorem reachableStatesMeetInvariants : Obligations.ReachableStatesMeetInvariants := by
  intro cfg s hc h
  obtain ⟨rfl, hinv⟩ := inv_of_reachable hc h
  exact ⟨hinv.regs.autoOnlyWhenOn, hinv.regs.cursorInPalette, hinv.regs.outInRange⟩

/-- Settles O58: CFG_REF is one of the well-formed configurations. -/
theorem resetMeetsInvariant : Obligations.ResetMeetsInvariant :=
  ⟨resetFor_inv Config.ref_wf [], fun _ h => resetFor_inv h []⟩

end Sys2Proof.Machine
end

section
/-! PROOF. The unit step and the firing of the ramp timer (spec/41_ramp_engine.md R112, R113, R119), and the Output Driver
(spec/44_output_driver.md R166 to R168). -/

namespace Sys2Proof.Machine

/-- R112: one unit nearer to the target, unless it has arrived. -/
theorem byteDist_step1 (cur tgt : Byte) : byteDist (step1 cur tgt) tgt = byteDist cur tgt - 1 := by
  unfold byteDist
  rw [step1_toNat]
  split_ifs <;> omega

/-- R112: at most one unit away. -/
theorem byteDist_step1_self (cur tgt : Byte) : byteDist (step1 cur tgt) cur ≤ 1 := by
  unfold byteDist
  rw [step1_toNat]
  split_ifs <;> omega

/-- Settles O18: the three cases of `step1_toNat`. -/
theorem unitStepNeverOvershoots : Obligations.UnitStepNeverOvershoots := by
  refine fun cur tgt => ⟨fun h => ?_, fun h => ?_, fun h => ?_, byteDist_step1 cur tgt, byteDist_step1_self cur tgt⟩
  · rw [step1_toNat, if_pos h]
  · rw [step1_toNat, if_neg h.not_gt, if_pos h]
    omega
  · rw [← h, step1_self]

/-- R113: the ramp timer's test over the integers. -/
theorem rampDue_iff (cfg : Config) (now : Nat) (s : Regs) : rampDue cfg now s = true ↔
    (cfg.rampInterval : Int) ≤ ((now : Int) - s.rampLast) % 2 ^ cfg.tw := elapsed_iff ..

theorem rampTick_of_due {cfg : Config} {now : Nat} {s : Regs} (h : rampDue cfg now s = true) :
    rampTick cfg now s = rampFire cfg now s := if_pos h

theorem rampTick_of_not_due {cfg : Config} {now : Nat} {s : Regs} (h : rampDue cfg now s = false) :
    rampTick cfg now s = s := if_neg (ne_true_of_eq_false h)

/-- R166: the output level of a channel value, written out. -/
theorem outputLevel_eq (cfg : Config) (s : Regs) (x : Byte) : outputLevel cfg s x =
    if s.power = true then s.bright.toNat * cfg.gamma[x.toNat] / 255 else 0 := rfl

/-- Settles O19: a firing tick is `rampFire`, whose fields are the rule's; the test is `rampDue_iff`. -/
theorem rampTickResult : Obligations.RampTickResult := by
  refine fun cfg now s => ⟨fun h => ⟨_, rampTick_of_due ((rampDue_iff cfg now s).mpr h), rfl, fun c => ?_⟩, fun h => ?_⟩
  · simp [outputLevel_eq]
  · apply rampTick_of_not_due
    rw [← Bool.not_eq_true, rampDue_iff]
    exact h.not_ge

/-- Settles O21: neither the timer nor the unit step reads a flag; the Output Driver reads `power`. -/
theorem rampRunsWhileOff : Obligations.RampRunsWhileOff := by
  intro cfg now s p a
  have hflags : rampDue cfg now { s with power := p, auto := a } = rampDue cfg now s := rampDue_congr rfl cfg now
  refine ⟨Rgb_ext_get fun c => by rw [rampTick_cur_get, rampTick_cur_get, hflags], ?_, fun hd => ?_⟩
  · cases hd : rampDue cfg now s
    · rw [rampTick_of_not_due hd, rampTick_of_not_due (hflags.trans hd)]
    · rw [rampTick_of_due hd, rampTick_of_due (hflags.trans hd), rampFire_rampLast, rampFire_rampLast]
  · have hoff : rampDue cfg now { s with power := false, auto := a } = true := (rampDue_congr rfl cfg now).trans hd
    rw [rampTick_of_due hoff]
    exact outputDriver_out_off cfg rfl

/-- R166: brightness 255 is the identity. -/
theorem outputLevel_full {cfg : Config} {s : Regs} (hp : s.power = true) (hb : s.bright = 255) (x : Byte) :
    outputLevel cfg s x = gammaLookup cfg x := by
  simp [outputLevel, scaleDuty, hp, hb, Config.maxLogical]

/-- R166: brightness 1 is the smallest factor. -/
theorem outputLevel_one {cfg : Config} {s : Regs} (hp : s.power = true) (hb : s.bright = 1) (x : Byte) :
    outputLevel cfg s x = gammaLookup cfg x / 255 := by
  simp [outputLevel, scaleDuty, hp, hb, Config.maxLogical]

/-- R166: the range of the product before the division, as a number and in bits. -/
theorem product_le {cfg : Config} (h : cfg.WF) (b x : Byte) : b.toNat * gammaLookup cfg x ≤ 255 * cfg.pwmMax :=
  Nat.mul_le_mul (by have := b.isLt; omega) (gammaLookup_le h x)

theorem gammaLookup_lt {cfg : Config} (h : cfg.WF) (x : Byte) : gammaLookup cfg x < 2 ^ cfg.pwmBits := by
  have hle := gammaLookup_le h x
  obtain ⟨_, _, ⟨_, _, hmax⟩, _⟩ := h
  exact hle.trans_lt hmax

theorem product_lt {cfg : Config} (h : cfg.WF) (b x : Byte) :
    b.toNat * gammaLookup cfg x < 2 ^ (8 + cfg.pwmBits) := by
  rw [pow_add]
  exact Nat.mul_lt_mul_of_lt_of_lt b.isLt (gammaLookup_lt h x)

/-- Settles O23: the driver's equation, its three inputs, and the corner cases of the product. -/
theorem outputLevelContract : Obligations.OutputLevelContract := by
  refine ⟨fun cfg s => ⟨_, rfl, fun c => Rgb_map_get _ _ c⟩, fun cfg s s' hc hb hp => ?_, fun cfg s x =>
    ⟨fun h => outputLevel_off h x, fun h => outputLevel_dark h x, fun hp hb => outputLevel_full hp hb x,
      fun hp hb => outputLevel_one hp hb x, fun h => ⟨product_le h s.bright x, product_lt h s.bright x⟩⟩⟩
  simp [Rgb.map, outputLevel, scaleDuty, hc, hb, hp]

/-- R168: the output level is monotone in the channel value. -/
theorem outputLevel_mono {cfg : Config} (h : cfg.WF) (s : Regs) {x y : Byte} (hxy : x.toNat ≤ y.toNat) :
    outputLevel cfg s x ≤ outputLevel cfg s y := by
  unfold outputLevel scaleDuty
  split
  · exact Nat.div_le_div_right (Nat.mul_le_mul_left _ (gammaLookup_mono h hxy))
  · exact le_rfl

/-- R168: and in the brightness. -/
theorem outputLevel_mono_bright (cfg : Config) (s : Regs) (x : Byte) {b : Byte} (hb : s.bright.toNat ≤ b.toNat) :
    outputLevel cfg s x ≤ outputLevel cfg { s with bright := b } x := by
  unfold outputLevel scaleDuty
  split
  · exact Nat.div_le_div_right (Nat.mul_le_mul_right _ hb)
  · exact le_rfl

/-- Settles O24: range and order of the output level, from those of the table and of floor division. -/
theorem outputLevelInRangeAndMonotone : Obligations.OutputLevelInRangeAndMonotone := fun cfg h s x _ =>
  ⟨outputLevel_le_gamma cfg s x, gammaLookup_le h x, gammaLookup_lt h x, outputLevel_mono h s,
    fun _ => outputLevel_mono_bright cfg s x⟩

end Sys2Proof.Machine
end

section
/-! PROOF. The current values and the outputs over an edge and over a run (spec/41_ramp_engine.md section 2,
spec/44_output_driver.md R167): an edge moves them only when it is a POLL whose ramp timer fires. -/

namespace Sys2Proof.Machine

/-- R182: an edge that decodes an operation executes it at the sampled time. -/
theorem exec_of_nextOp {s t : State} {i : Instr} (h : step s = .next t) (op : nextOp s = some i) :
    exec i (atEdge s) = .next t := by
  rcases step_cases h with ⟨_, hn, _⟩ | ⟨_, hn, _⟩ | ⟨_, j, hj, hx⟩
  · simp [hn] at op
  · simp [hn] at op
  · rw [op] at hj
    cases hj
    exact hx

theorem nextRampFires_iff (s : State) : nextRampFires s = true ↔
    nextOp s = some .poll ∧ rampDue s.cfg (nextNow s) s.regs = true := by
  simp [nextRampFires]

/-- R113: an edge whose ramp timer fires is a POLL that finds the timer due. -/
theorem exec_of_nextRampFires {s t : State} (h : step s = .next t) (hf : nextRampFires s = true) :
    exec .poll (atEdge s) = .next t ∧ rampDue (atEdge s).cfg (atEdge s).now (atEdge s).regs = true := by
  obtain ⟨op, hd⟩ := (nextRampFires_iff s).mp hf
  exact ⟨exec_of_nextOp h op, hd⟩

/-- Settles O26: a firing POLL writes the levels of its new current values, every other edge keeps the outputs. -/
theorem outputsWrittenOnlyByFiringRamp : Obligations.OutputsWrittenOnlyByFiringRamp := by
  refine fun s t h hr => ⟨fun hf c => ?_, step_keeps_out h hr⟩
  obtain ⟨hx, hd⟩ := exec_of_nextRampFires h hf
  rw [poll_out_of_rampDue hx hd, Rgb_map_get]
  rfl

/-- R113: no operation but POLL writes the current values. -/
theorem exec_keeps_cur {i : Instr} {s t : State} (hi : i ≠ .poll) (h : exec i s = .next t) :
    t.regs.cur = s.regs.cur := by
  cases i with
  | poll => exact absurd rfl hi
  | setPower v => cases h; rfl
  | setColor r g b => exact (exec_setColor_cur_tgt h).1
  | setBright x => cases h; rfl
  | connect =>
    cases hc : s.regs.connected
    · rw [exec_connect_first s hc] at h; cases h; rfl
    · rw [exec_connect_again s hc] at h; cases h; rfl

/-- R113: nor does a POLL whose ramp timer does not fire. -/
theorem poll_keeps_cur {s t : State} (h : exec .poll s = .next t) (hd : rampDue s.cfg s.now s.regs = false) :
    t.regs.cur = s.regs.cur := by
  rw [exec_poll, pollRegs_of_not_rampDue hd] at h
  cases h
  exact autoTick_cur s.cfg s.now s.regs

/-- R113: an edge that is neither a reset edge nor a POLL whose ramp timer fires keeps the current values. -/
theorem step_keeps_cur {s t : State} (h : step s = .next t) (hr : nextReset s = false)
    (hf : nextRampFires s = false) : t.regs.cur = s.regs.cur := by
  rcases step_cases h with ⟨h1, _⟩ | ⟨_, _, _, rfl⟩ | ⟨_, i, op, hx⟩
  · simp [hr] at h1
  · rfl
  · by_cases hi : i = .poll
    · subst hi
      have hd : rampDue s.cfg (nextNow s) s.regs = false := by simpa [nextRampFires, op] using hf
      exact poll_keeps_cur (s := atEdge s) hx hd
    · exact exec_keeps_cur (s := atEdge s) hi hx

/-- R113, R181: an edge whose ramp timer fires steps every lane toward the target it leaves stored. -/
theorem step_cur_of_rampFires {s t : State} (h : step s = .next t) (hf : nextRampFires s = true) (c : Channel) :
    t.regs.cur.get c = step1 (s.regs.cur.get c) (t.regs.tgt.get c) := by
  obtain ⟨hx, hd⟩ := exec_of_nextRampFires h hf
  exact poll_cur_of_rampDue hx hd c

/-- Settles O28: a lane is kept or takes one unit step. -/
theorem currentValuesMoveByOneUnit : Obligations.CurrentValuesMoveByOneUnit := by
  refine fun s t h hr => ⟨step_keeps_cur h hr, fun hf c => ?_⟩
  have hc := step_cur_of_rampFires h hf c
  exact ⟨hc, hc ▸ byteDist_step1_self _ _⟩

/-! Convergence (R117): the distance to a target that stays is what it was less the firings. -/

theorem byteDist_eq_zero_iff (a b : Byte) : byteDist a b = 0 ↔ a = b := by
  rw [byteDist, ← BitVec.toNat_inj]
  omega

theorem byteDist_le (a b : Byte) : byteDist a b ≤ 255 := by
  have := a.isLt
  have := b.isLt
  unfold byteDist
  omega

theorem byteDist_self (a : Byte) : byteDist a a = 0 := (byteDist_eq_zero_iff a a).mpr rfl

theorem byteDist_triangle (a b c : Byte) : byteDist a c ≤ byteDist a b + byteDist b c := by
  unfold byteDist
  omega

/-- One edge: the distance to the stored target shrinks by one exactly when the ramp timer fires. -/
theorem step_byteDist {s t : State} (h : step s = .next t) (hr : nextReset s = false) (c : Channel) :
    byteDist (t.regs.cur.get c) (t.regs.tgt.get c) =
      byteDist (s.regs.cur.get c) (t.regs.tgt.get c) - if nextRampFires s then 1 else 0 := by
  cases hf : nextRampFires s
  · rw [step_keeps_cur h hr hf]
    simp
  · rw [step_cur_of_rampFires h hf, byteDist_step1]
    simp

/-- A run: the same, with the number of firings. -/
theorem after_byteDist {n : Nat} {s t : State} {T : Rgb Byte} (h : after n s = some t)
    (hr : everyEdge (fun u => nextReset u = false) n s)
    (hT : ∀ k u, k ≤ n → after k s = some u → u.regs.tgt = T) (c : Channel) :
    byteDist (t.regs.cur.get c) (T.get c) = byteDist (s.regs.cur.get c) (T.get c) - countEdges nextRampFires n s := by
  induction n generalizing s with
  | zero =>
    cases h
    rfl
  | succ n ih =>
    obtain ⟨u, hu, hut⟩ := after_succ_split h
    obtain ⟨hr0, hrn⟩ := everyEdge_succ hr hu
    have hTu : ∀ k v, k ≤ n → after k u = some v → v.regs.tgt = T :=
      fun k v hk hv => hT (k + 1) v (by omega) (by rw [after_succ hu, hv])
    have hedge := step_byteDist hu hr0 c
    rw [hTu 0 u (by omega) rfl] at hedge
    rw [ih hut hrn hTu, hedge, countEdges_succ hu, Nat.sub_sub]

/-- Settles O29: `after_byteDist`; a distance is at most 255, so 255 firings bring it to 0. -/
theorem rampConverges : Obligations.RampConverges := by
  intro n s t h hr hT
  have hdist := after_byteDist h hr hT
  refine ⟨hdist, fun hn => Rgb_ext_get fun c => ?_⟩
  have hle := byteDist_le (s.regs.cur.get c) (s.regs.tgt.get c)
  rw [← byteDist_eq_zero_iff, hdist c]
  omega

/-! The step rate (R113, R250): the firings of a run, counted in true time. -/

/-- One edge: no lane moves further than the ramp timer fires. -/
theorem step_cur_byteDist_le {s t : State} (h : step s = .next t) (hr : nextReset s = false) (c : Channel) :
    byteDist (t.regs.cur.get c) (s.regs.cur.get c) ≤ if nextRampFires s then 1 else 0 := by
  cases hf : nextRampFires s
  · rw [step_keeps_cur h hr hf, byteDist_self]
    exact Nat.zero_le _
  · rw [step_cur_of_rampFires h hf]
    exact byteDist_step1_self _ _

/-- A run: the same, with the number of firings. -/
theorem after_cur_byteDist_le {n : Nat} {s t : State} (h : after n s = some t)
    (hr : everyEdge (fun u => nextReset u = false) n s) (c : Channel) :
    byteDist (t.regs.cur.get c) (s.regs.cur.get c) ≤ countEdges nextRampFires n s := by
  induction n generalizing s with
  | zero =>
    cases h
    exact (byteDist_self _).le
  | succ n ih =>
    obtain ⟨u, hu, hut⟩ := after_succ_split h
    obtain ⟨hr0, hrn⟩ := everyEdge_succ hr hu
    calc byteDist (t.regs.cur.get c) (s.regs.cur.get c)
        ≤ byteDist (t.regs.cur.get c) (u.regs.cur.get c) + byteDist (u.regs.cur.get c) (s.regs.cur.get c) :=
          byteDist_triangle _ _ _
      _ ≤ countEdges nextRampFires n u + if nextRampFires s then 1 else 0 :=
          Nat.add_le_add (ih hut hrn) (step_cur_byteDist_le hu hr0 c)
      _ = countEdges nextRampFires (n + 1) s := by rw [countEdges_succ hu, Nat.add_comm]

/-- An edge that does not fire the ramp timer keeps its stamp. -/
theorem step_keeps_rampLast {s t : State} (h : step s = .next t) (hr : nextReset s = false)
    (hf : nextRampFires s = false) : t.regs.rampLast = s.regs.rampLast := by
  rcases step_rampLast_reportLast h hr with ⟨e, _⟩ | ⟨hf', _⟩ | ⟨_, _, e, _⟩
  · exact e
  · simp [hf] at hf'
  · exact e

/-- An edge that fires it stamps the presented time. -/
theorem step_rampLast_of_rampFires {s t : State} (h : step s = .next t) (hf : nextRampFires s = true) :
    t.regs.rampLast = nextNow s := by
  obtain ⟨hx, hd⟩ := exec_of_nextRampFires h hf
  exact poll_rampLast_of_rampDue hx hd

/-- Under the clock duty, a firing stamps the true time of its edge, modulo `2^TW`. -/
theorem step_rampLast_of_clockDuty {τ : Nat → Nat} {s t : State} (hc : ClockDuty τ s) (h : step s = .next t)
    (hf : nextRampFires s = true) : nextNow s = τ 0 % 2 ^ s.cfg.tw ∧ t.regs.rampLast = τ 0 % 2 ^ t.cfg.tw := by
  obtain ⟨op, _⟩ := (nextRampFires_iff s).mp hf
  have hn := nextNow_of_clockDuty hc (by simp [op])
  exact ⟨hn, by rw [step_rampLast_of_rampFires h hf, hn, (step_frame h).1]⟩

/-- The firings after a stamp of true time `L`: each is an interval later than the one before it, up to the last edge's
true time, at most `E`. -/
theorem firings_after_stamp {n L E : Nat} {τ : Nat → Nat} {s : State} (hc : ClockDuty τ s)
    (hr : everyEdge (fun u => nextReset u = false) n s) (hs : s.regs.rampLast = L % 2 ^ s.cfg.tw) (hL : L ≤ τ 0)
    (hLE : L ≤ E) (hE : ∀ k, k < n → τ k ≤ E) :
    countEdges nextRampFires n s * s.cfg.rampInterval + L ≤ E := by
  induction n generalizing s τ L with
  | zero => simpa [countEdges] using hLE
  | succ n ih =>
    obtain ⟨u, hu⟩ := step_next s
    obtain ⟨hr0, hrn⟩ := everyEdge_succ hr hu
    obtain ⟨hcfg, _⟩ := step_frame hu
    have hcu := clockDuty_step hc hu
    have hEu : ∀ k, k < n → τ (k + 1) ≤ E := fun k hk => hE (k + 1) (by omega)
    have h01 : τ 0 ≤ τ 1 := hc.1 0 1 (by omega)
    rw [countEdges_succ hu]
    cases hf : nextRampFires s
    · have hsu : u.regs.rampLast = L % 2 ^ u.cfg.tw := by rw [step_keeps_rampLast hu hr0 hf, hs, hcfg]
      have hrest := ih hcu hrn hsu (hL.trans h01) hLE hEu
      rw [hcfg] at hrest
      simpa using hrest
    · obtain ⟨_, hd⟩ := (nextRampFires_iff s).mp hf
      obtain ⟨hn, hsu⟩ := step_rampLast_of_clockDuty hc hu hf
      have hwait : L + s.cfg.rampInterval ≤ τ 0 := by
        rw [rampDue, hn, hs] at hd
        exact true_time_of_elapsed hL hd
      have hrest := ih hcu hrn hsu h01 (hE 0 (by omega)) hEu
      rw [hcfg] at hrest
      simp only [if_true, Nat.add_mul, Nat.one_mul]
      omega

/-- The firings of a run: the first may come at once, whatever the stamp. -/
theorem firings_of_run {n E : Nat} {τ : Nat → Nat} {s : State} (hc : ClockDuty τ s)
    (hr : everyEdge (fun u => nextReset u = false) n s) (hE : ∀ k, k < n → τ k ≤ E) :
    countEdges nextRampFires n s * s.cfg.rampInterval ≤ E - τ 0 + s.cfg.rampInterval := by
  induction n generalizing s τ with
  | zero => simp [countEdges]
  | succ n ih =>
    obtain ⟨u, hu⟩ := step_next s
    obtain ⟨_, hrn⟩ := everyEdge_succ hr hu
    obtain ⟨hcfg, _⟩ := step_frame hu
    have hcu := clockDuty_step hc hu
    have hEu : ∀ k, k < n → τ (k + 1) ≤ E := fun k hk => hE (k + 1) (by omega)
    have h01 : τ 0 ≤ τ 1 := hc.1 0 1 (by omega)
    rw [countEdges_succ hu]
    cases hf : nextRampFires s
    · have hrest : countEdges nextRampFires n u * u.cfg.rampInterval ≤ E - τ 1 + u.cfg.rampInterval :=
        ih hcu hrn hEu
      rw [hcfg] at hrest
      simp only [Bool.false_eq_true, if_false, Nat.zero_add]
      omega
    · obtain ⟨_, hsu⟩ := step_rampLast_of_clockDuty hc hu hf
      have hrest := firings_after_stamp hcu hrn hsu h01 (hE 0 (by omega)) hEu
      rw [hcfg] at hrest
      simp only [if_true, Nat.add_mul, Nat.one_mul]
      omega

/-- Settles O30: no lane moves further than the timer fires (`after_cur_byteDist_le`), and the firings are an interval
apart in true time (`firings_of_run`). -/
theorem rampRateBoundedInTrueTime : Obligations.RampRateBoundedInTrueTime := fun τ n s t hc h hr c =>
  calc byteDist (t.regs.cur.get c) (s.regs.cur.get c) * s.cfg.rampInterval
      ≤ countEdges nextRampFires (n + 1) s * s.cfg.rampInterval :=
        Nat.mul_le_mul_right _ (after_cur_byteDist_le h hr c)
    _ ≤ τ n - τ 0 + s.cfg.rampInterval := firings_of_run hc hr fun k hk => hc.1 k n (by omega)

end Sys2Proof.Machine
end

section
/-! PROOF. Stamps, events and the reporting throttle (spec/60_exceptions.md sections 2 and 3). -/

namespace Sys2Proof.Machine

/-- Settles O44: the test over the integers; within `2^TW` of true time the reduction is the difference itself; a clock
that went backwards is the one-wrap case. -/
theorem elapsedTestAcrossWrap : Obligations.ElapsedTestAcrossWrap := by
  refine ⟨elapsed_iff, elapsed_zero, fun cfg T L interval hLT hlt => ?_, fun tw now d hd hlt => ?_⟩
  · rw [elapsed, decide_eq_true_iff, subTW_mod_of_le hLT, Nat.mod_eq_of_lt hlt]
    omega
  · rw [subTW_of_lt (by omega) hlt.le, Nat.add_sub_cancel_left]

/-- R221: the elapsed test over the modular difference. -/
theorem elapsed_iff_subTW (cfg : Config) (now last interval : Nat) :
    elapsed cfg now last interval = true ↔ interval ≤ subTW cfg.tw now last := decide_eq_true_iff

/-- R212: a color event comes from a SETCOLOR that the throttle lets through, and carries the targets it stores. -/
theorem step_color_event {s t : State} {x : Rgb Byte} (h : step s = .next t) (hx : t.events.color = some x) :
    nextReset s = false ∧ (∃ r g b, nextOp s = some (.setColor r g b) ∧ x = clampColor r g b) ∧
    reportDue s.cfg (nextNow s) s.regs = true ∧ t.regs.reportLast = nextNow s ∧ t.regs.tgt = x ∧
    t.events = emitColor x := by
  cases hr : nextReset s
  case true =>
    obtain ⟨_, e, _⟩ := step_reset h hr
    simp [e] at hx
  case false =>
    rcases step_effect h hr with ⟨_, _, e⟩ | ⟨_, _, e⟩ | ⟨v, _, _, e⟩ | ⟨r, g, b, op, hd, er, e⟩ |
      ⟨r, g, b, _, _, _, e⟩ | ⟨y, _, _, e⟩ | ⟨_, _, _, e⟩ | ⟨_, _, _, e⟩ <;> rw [e] at hx <;> cases hx
    exact ⟨rfl, ⟨r, g, b, op, rfl⟩, hd, by simp [er], by simp [er], e⟩

/-- Settles O46: each firing by its own stamp lemma; the test is `elapsed_iff_subTW`. -/
theorem firingStampsNow : Obligations.FiringStampsNow := by
  refine fun s t h hr => ⟨fun hf => ?_, fun hf => ?_, fun hc => ?_⟩
  · obtain ⟨_, hd⟩ := (nextRampFires_iff s).mp hf
    exact ⟨step_rampLast_of_rampFires h hf, (elapsed_iff_subTW ..).mp hd⟩
  · obtain ⟨_, _, hd⟩ := (nextCycleFires_iff s).mp hf
    rcases step_cycle h hr with ⟨_, e, _⟩ | ⟨hn, _⟩
    · exact ⟨e, (elapsed_iff_subTW ..).mp hd⟩
    · simp [hf] at hn
  · obtain ⟨x, hx⟩ := Option.ne_none_iff_exists'.mp hc
    obtain ⟨_, _, hd, e, _⟩ := step_color_event h hx
    exact ⟨e, (elapsed_iff_subTW ..).mp hd⟩

/-- R211: a state event comes from a SETPOWER or the first CONNECT, and carries the power it stores. -/
theorem step_state_event {s t : State} {v : Bool} (h : step s = .next t) (hv : t.events.state = some v) :
    (nextOp s = some (.setPower v) ∨ (nextOp s = some .connect ∧ s.regs.connected = false ∧ v = true)) ∧
    t.regs.power = v ∧ t.events = emitState v := by
  cases hr : nextReset s
  case true =>
    obtain ⟨_, e, _⟩ := step_reset h hr
    simp [e] at hv
  case false =>
    rcases step_effect h hr with ⟨_, _, e⟩ | ⟨_, _, e⟩ | ⟨w, op, er, e⟩ | ⟨r, g, b, _, _, _, e⟩ |
      ⟨r, g, b, _, _, _, e⟩ | ⟨y, _, _, e⟩ | ⟨op, hc, er, e⟩ | ⟨_, _, _, e⟩ <;> rw [e] at hv <;> cases hv
    · exact ⟨.inl op, by simp [er], e⟩
    · exact ⟨.inr ⟨op, hc, rfl⟩, by simp [er], e⟩

/-- R213: a brightness event comes from a SETBRIGHT and carries its operand. -/
theorem step_bright_event {s t : State} {x : Half} (h : step s = .next t) (hx : t.events.bright = some x) :
    nextOp s = some (.setBright x) ∧ t.events = emitBright x := by
  cases hr : nextReset s
  case true =>
    obtain ⟨_, e, _⟩ := step_reset h hr
    simp [e] at hx
  case false =>
    rcases step_effect h hr with ⟨_, _, e⟩ | ⟨_, _, e⟩ | ⟨w, _, _, e⟩ | ⟨r, g, b, _, _, _, e⟩ |
      ⟨r, g, b, _, _, _, e⟩ | ⟨y, op, _, e⟩ | ⟨_, _, _, e⟩ | ⟨_, _, _, e⟩ <;> rw [e] at hx <;> cases hx
    exact ⟨op, e⟩

/-- R210: a reset edge, an idle cycle, a rejected word and a POLL raise no event. -/
theorem step_quiet {s t : State} (h : step s = .next t) (hop : nextOp s = none ∨ nextOp s = some .poll) :
    t.events = .quiet := by
  rcases step_cases h with ⟨_, _, rfl⟩ | ⟨_, _, st, rfl⟩ | ⟨_, i, op, hx⟩
  · rfl
  · rfl
  · obtain rfl : i = .poll := by simpa [op] using hop
    cases hx
    rfl

/-- Settles O47: each event by its one source, which raises that event alone. -/
theorem atMostOneEventPerStep : Obligations.AtMostOneEventPerStep := by
  refine fun s t h => ⟨fun v hv => ?_, fun x hx => ?_, fun x hx => ?_, step_quiet h⟩
  · obtain ⟨hop, hp, e⟩ := step_state_event h hv
    exact ⟨hop, hp, by rw [e, emitState_color], by rw [e, emitState_bright]⟩
  · obtain ⟨_, hop, _, _, ht, e⟩ := step_color_event h hx
    exact ⟨hop, ht, by rw [e, emitColor_state], by rw [e, emitColor_bright]⟩
  · obtain ⟨hop, e⟩ := step_bright_event h hx
    exact ⟨hop, by rw [e, emitBright_state], by rw [e, emitBright_color]⟩

/-- The next report after a stamp of true time `L` is an interval later, whatever happens between. -/
theorem report_after_stamp {n L : Nat} {τ : Nat → Nat} {s t : State} (hc : ClockDuty τ s)
    (hr : everyEdge (fun u => nextReset u = false) (n + 1) s) (h : after (n + 1) s = some t)
    (hx : t.events.color ≠ none) (hs : s.regs.reportLast = L % 2 ^ s.cfg.tw) (hL : L ≤ τ 0) :
    L + s.cfg.reportInterval ≤ τ n := by
  induction n generalizing s τ L with
  | zero =>
    obtain ⟨u, hu, hut⟩ := after_succ_split h
    cases hut
    obtain ⟨x, hx⟩ := Option.ne_none_iff_exists'.mp hx
    obtain ⟨_, ⟨r, g, b, op, _⟩, hd, _⟩ := step_color_event hu hx
    rw [reportDue, nextNow_of_clockDuty hc (by simp [op]), hs] at hd
    exact true_time_of_elapsed hL hd
  | succ n ih =>
    obtain ⟨u, hu, hut⟩ := after_succ_split h
    obtain ⟨hr0, hrn⟩ := everyEdge_succ hr hu
    obtain ⟨hcfg, _⟩ := step_frame hu
    have hcu := clockDuty_step hc hu
    have h01 : τ 0 ≤ τ 1 := hc.1 0 1 (by omega)
    have hkeep (e : u.regs.reportLast = s.regs.reportLast) : L + s.cfg.reportInterval ≤ τ (n + 1) :=
      hcfg ▸ ih hcu hrn hut (by rw [e, hs, hcfg]) (hL.trans h01)
    rcases step_rampLast_reportLast hu hr0 with ⟨_, e⟩ | ⟨_, _, e⟩ | ⟨⟨r, g, b, op⟩, _, _, e⟩
    · exact hkeep e
    · exact hkeep e
    · have hstamp : u.regs.reportLast = τ 0 % 2 ^ u.cfg.tw := by
        rw [e, nextNow_of_clockDuty hc (by simp [op]), hcfg]
      have hrest := ih hcu hrn hut hstamp h01
      rw [hcfg] at hrest
      exact (Nat.add_le_add_right hL _).trans hrest

/-- Settles O48: the first report stamps its true time, and `report_after_stamp` says how long the next one waits. -/
theorem colorReportsRateLimited : Obligations.ColorReportsRateLimited := by
  intro τ n s a t hc ha hac h ht hr
  obtain ⟨hcfg, _⟩ := step_frame ha
  obtain ⟨x, hx⟩ := Option.ne_none_iff_exists'.mp hac
  obtain ⟨_, ⟨r, g, b, op, _⟩, _, e, _⟩ := step_color_event ha hx
  have hstamp : a.regs.reportLast = τ 0 % 2 ^ a.cfg.tw := by
    rw [e, nextNow_of_clockDuty hc (by simp [op]), hcfg]
  rw [← hcfg]
  exact report_after_stamp (τ := fun k => τ (k + 1)) (clockDuty_step hc ha) hr h ht hstamp (hc.1 0 1 (by omega))

end Sys2Proof.Machine
end

section
/-! PROOF. The palette (spec/43_auto_cycle.md): a firing of the auto-cycle timer, runs of firings, suspension, and the first
POLL after reset. -/

namespace Sys2Proof.Machine

/-- R150: the auto-cycle timer's test over the integers. -/
theorem cycleDue_iff (cfg : Config) (now : Nat) (s : Regs) : cycleDue cfg now s = true ↔
    (cfg.cycleInterval : Int) ≤ ((now : Int) - s.cycleLast) % 2 ^ cfg.tw := elapsed_iff ..

theorem cycleDue_eq_false_iff (cfg : Config) (now : Nat) (s : Regs) : cycleDue cfg now s = false ↔
    ((now : Int) - s.cycleLast) % 2 ^ cfg.tw < cfg.cycleInterval := by
  rw [← Bool.not_eq_true, cycleDue_iff, not_le]

theorem cycleTick_of_due {cfg : Config} {now : Nat} {s : Regs} (h : cycleDue cfg now s = true) :
    cycleTick cfg now s = cycleFire cfg now s := if_pos h

theorem cycleTick_of_not_due {cfg : Config} {now : Nat} {s : Regs} (h : cycleDue cfg now s = false) :
    cycleTick cfg now s = s := if_neg (ne_true_of_eq_false h)

/-- An entry stands only at an index below `PAL_LEN`. -/
theorem lt_palLen_of_getElem? {cfg : Config} {i : Nat} {e : Rgb Byte} (h : cfg.palette[i]? = some e) :
    i < cfg.palLen := (List.getElem?_eq_some_iff.mp h).1

/-- R151: the cursor's two cases in one. -/
theorem nextCursor_eq {cfg : Config} {k : Nat} (h : k < cfg.palLen) :
    nextCursor cfg k = if k + 1 = cfg.palLen then 0 else k + 1 := by
  split_ifs with hlast
  · exact nextCursor_last hlast
  · exact nextCursor_of_lt (by omega)

/-- R150: a firing with the cursor in the palette, as the record it writes. -/
theorem cycleFire_eq {cfg : Config} {s : Regs} {e : Rgb Byte} (h : cfg.palette[s.cursor]? = some e) (now : Nat) :
    cycleFire cfg now s = { s with
      cycleLast := now
      cursor := if s.cursor + 1 = cfg.palLen then 0 else s.cursor + 1
      tgt := e } := by
  rw [← nextCursor_eq (lt_palLen_of_getElem? h), ← paletteRead_of_getElem? h]
  rfl

/-- Settles O31: a firing tick is `cycleFire`; the test is `cycleDue_iff`; only a firing moves the stamp (`step_cycle`). -/
theorem cycleTickResult : Obligations.CycleTickResult := by
  refine ⟨fun cfg now s e he => ⟨fun hd => ?_, fun hd => cycleTick_of_not_due ((cycleDue_eq_false_iff ..).mpr hd)⟩,
    fun s t h hr hw => ?_⟩
  · exact (cycleTick_of_due ((cycleDue_iff ..).mpr hd)).trans (cycleFire_eq he now)
  · rcases step_cycle h hr with ⟨hf, _⟩ | ⟨_, e, _⟩
    · obtain ⟨op, ha, _⟩ := (nextCycleFires_iff s).mp hf
      exact ⟨op, ha⟩
    · exact absurd e hw

/-- An edge without reset whose operation, if any, is a POLL takes the entry at the cursor when the auto-cycle timer fires,
and keeps the targets otherwise. -/
theorem step_tgt_of_poll {s t : State} (h : step s = .next t) (hr : nextReset s = false)
    (hop : nextOp s = none ∨ nextOp s = some .poll) :
    t.regs.tgt = if nextCycleFires s then paletteRead s.cfg s.regs.cursor else s.regs.tgt := by
  rcases step_cases h with ⟨h1, _⟩ | ⟨_, op, _, rfl⟩ | ⟨_, i, op, hx⟩
  · simp [hr] at h1
  · simp [nextCycleFires, op]
  · obtain rfl : i = .poll := by simpa [op] using hop
    obtain ⟨_, _, htgt⟩ := exec_poll_cycle hx
    rw [htgt, atEdge_cfg, atEdge_now, atEdge_regs]
    rcases autoTick_cases s.cfg (nextNow s) s.regs with ⟨ha, hd, e⟩ | ⟨hn, e⟩
    · rw [e, if_pos ((nextCycleFires_iff s).mpr ⟨op, ha, hd⟩), cycleFire_tgt]
    · rw [e, if_neg fun hf => ?_]
      obtain ⟨_, ha, hd⟩ := (nextCycleFires_iff s).mp hf
      simp [ha, hd] at hn

/-- R151: an edge without reset advances the cursor by one, modulo `PAL_LEN`, exactly when the timer fires. -/
theorem step_cursor {s t : State} (h : step s = .next t) (hr : nextReset s = false)
    (hc : s.regs.cursor < s.cfg.palLen) :
    t.regs.cursor = (s.regs.cursor + if nextCycleFires s then 1 else 0) % s.cfg.palLen := by
  rcases step_cycle h hr with ⟨hf, _, e⟩ | ⟨hf, _, e⟩ <;> rw [e, hf]
  · rfl
  · exact (Nat.mod_eq_of_lt hc).symm

/-- The traversal: over a run of POLLs the cursor counts the firings, and the targets are the entry it left last, or as they
were when nothing fired. -/
theorem after_palette {n : Nat} {s t : State} (hc : s.regs.cursor < s.cfg.palLen) (h : after n s = some t)
    (hr : everyEdge (fun u => nextReset u = false ∧ (nextOp u = none ∨ nextOp u = some .poll)) n s) :
    t.regs.cursor = (s.regs.cursor + countEdges nextCycleFires n s) % s.cfg.palLen ∧
    (countEdges nextCycleFires n s = 0 → t.regs.tgt = s.regs.tgt) ∧
    ∀ m, countEdges nextCycleFires n s = m + 1 →
      t.regs.tgt = paletteRead s.cfg ((s.regs.cursor + m) % s.cfg.palLen) := by
  induction n generalizing s with
  | zero =>
    cases h
    exact ⟨(Nat.mod_eq_of_lt hc).symm, fun _ => rfl, fun m hm => by simp [countEdges] at hm⟩
  | succ n ih =>
    obtain ⟨u, hu, hut⟩ := after_succ_split h
    obtain ⟨⟨hr0, hop⟩, hrn⟩ := everyEdge_succ hr hu
    obtain ⟨hcfg, _⟩ := step_frame hu
    obtain ⟨hcursor, hkept, hread⟩ := ih (step_cursor_lt hu hc) hut hrn
    have hucursor := step_cursor hu hr0 hc
    have hutgt := step_tgt_of_poll hu hr0 hop
    simp only [hcfg, hucursor, Nat.mod_add_mod, Nat.add_assoc] at hcursor hread
    rw [countEdges_succ hu]
    refine ⟨hcursor, fun h0 => ?_, fun m hm => ?_⟩
    · obtain ⟨hf, h0'⟩ := Nat.add_eq_zero_iff.mp h0
      rw [hkept h0', hutgt, if_neg (by simpa using hf)]
    · cases hf : nextCycleFires s
      · simp only [hf, Bool.false_eq_true, if_false, Nat.zero_add] at hm hread
        exact hread m hm
      · simp only [hf, if_true] at hm hread hutgt
        cases m with
        | zero => rw [hkept (by omega), hutgt, Nat.add_zero, Nat.mod_eq_of_lt hc]
        | succ m => rw [hread m (by omega), Nat.add_comm 1 m]

/-- R55: below `PAL_LEN` a palette read is the entry that stands there. -/
theorem getElem?_eq_paletteRead {cfg : Config} {i : Nat} (h : i < cfg.palLen) :
    cfg.palette[i]? = some (paletteRead cfg i) := by
  rw [paletteRead_of_lt h]
  exact List.getElem?_eq_getElem h

/-- Settles O34: `after_palette`, by induction on the run. -/
theorem paletteTraversedInOrder : Obligations.PaletteTraversedInOrder := by
  intro n s t hs _ h hr
  have hc := hs.regs.cursorInPalette
  obtain ⟨hcursor, _, hread⟩ := after_palette hc h hr
  exact ⟨hcursor, fun m hm => hread m hm ▸ getElem?_eq_paletteRead (Nat.mod_lt _ (Nat.zero_lt_of_lt hc))⟩

/-- R154: outside auto mode an edge without reset moves neither cursor nor stamp. -/
theorem step_palette_frozen {s t : State} (h : step s = .next t) (hr : nextReset s = false)
    (ha : s.regs.auto = false) : t.regs.cursor = s.regs.cursor ∧ t.regs.cycleLast = s.regs.cycleLast := by
  rcases step_cycle h hr with ⟨hf, _⟩ | ⟨_, hlast, hcursor⟩
  · simp [nextCycleFires, ha] at hf
  · exact ⟨hcursor, hlast⟩

/-- R154: nor does a run. -/
theorem after_palette_frozen {n : Nat} {s t : State} (h : after n s = some t)
    (hr : everyEdge (fun u => nextReset u = false ∧ u.regs.auto = false) n s) :
    t.regs.cursor = s.regs.cursor ∧ t.regs.cycleLast = s.regs.cycleLast := by
  induction n generalizing s with
  | zero =>
    cases h
    exact ⟨rfl, rfl⟩
  | succ n ih =>
    obtain ⟨u, hu, hut⟩ := after_succ_split h
    obtain ⟨⟨hr0, ha⟩, hrn⟩ := everyEdge_succ hr hu
    obtain ⟨hcursor, hlast⟩ := ih hut hrn
    obtain ⟨hcursor0, hlast0⟩ := step_palette_frozen hu hr0 ha
    exact ⟨hcursor.trans hcursor0, hlast.trans hlast0⟩

/-- R180: in auto mode, the targets a POLL leaves, with the cursor in the palette. -/
theorem poll_tgt_of_auto {s t : State} {e : Rgb Byte} (h : exec .poll s = .next t) (ha : s.regs.auto = true)
    (he : s.cfg.palette[s.regs.cursor]? = some e) :
    (cycleDue s.cfg s.now s.regs = true → t.regs.tgt = e) ∧
    (cycleDue s.cfg s.now s.regs = false → t.regs.tgt = s.regs.tgt) := by
  obtain ⟨_, _, htgt⟩ := exec_poll_cycle h
  rw [autoTick_of_auto ha] at htgt
  refine ⟨fun hd => ?_, fun hd => ?_⟩
  · rw [htgt, cycleTick_of_due hd, cycleFire_tgt, paletteRead_of_getElem? he]
  · rw [htgt, cycleTick_of_not_due hd]

/-- Settles O35: outside auto mode nothing moves cursor or stamp; the power command that enters it keeps both, so the next
POLL tests the old stamp. -/
theorem paletteResumesWhereItStopped : Obligations.PaletteResumesWhereItStopped := by
  refine ⟨fun n s t => after_palette_frozen, fun s t i hi h => (exec_keeps_cycle hi h).symm,
    fun s t u e now hp ht he hu => ?_⟩
  rw [exec_setPower] at ht
  cases ht
  have hauto : autoAfterPower true s.regs = true := autoAfterPower_of_ne (by simp [hp])
  obtain ⟨hfire, hkeep⟩ := poll_tgt_of_auto hu hauto he
  exact ⟨fun hd => hfire ((cycleDue_iff ..).mpr hd), fun hd => hkeep ((cycleDue_eq_false_iff ..).mpr hd)⟩

/-- R155: the reset stamp of the auto-cycle timer is born expired, except in the last interval before a wrap of the clock. -/
theorem cycleDue_reset_iff {cfg : Config} {t0 : Nat} (h : cfg.WF) (ht : t0 < 2 ^ cfg.tw) :
    cycleDue cfg t0 (Regs.reset cfg) = true ↔ t0 < 2 ^ cfg.tw - cfg.cycleInterval := by
  have hI := Config.cycleInterval_lt h
  have hstamp : subTW cfg.tw t0 (Regs.reset cfg).cycleLast = subTW cfg.tw t0 (2 ^ cfg.tw - cfg.cycleInterval) := by
    conv_lhs => rw [← Nat.mod_eq_of_lt ht]
    exact subTW_mod ..
  rw [cycleDue, elapsed_iff_subTW, hstamp]
  rcases Nat.lt_or_ge t0 (2 ^ cfg.tw - cfg.cycleInterval) with hlt | hge
  · rw [subTW_of_lt hlt (Nat.sub_le ..)]
    omega
  · rw [subTW_of_le hge ht]
    omega

/-- R28: the ramp timer's reset stamp is 0. -/
theorem rampDue_reset_iff {cfg : Config} {t0 : Nat} (ht : t0 < 2 ^ cfg.tw) :
    rampDue cfg t0 (Regs.reset cfg) = true ↔ cfg.rampInterval ≤ t0 := by
  have hsub : subTW cfg.tw t0 (Regs.reset cfg).rampLast = t0 := subTW_of_le (Nat.zero_le _) ht
  rw [rampDue, elapsed_iff_subTW, hsub]

/-- Settles O36: the two timers' tests on the reset stamps; each half of POLL by its own case. -/
theorem firstPollAfterReset : Obligations.FirstPollAfterReset := by
  intro cfg t0 e t hcfg ht he h
  have hcycle := cycleDue_reset_iff hcfg ht
  have hramp := rampDue_reset_iff (cfg := cfg) ht
  obtain ⟨hlast, hcursor, htgt⟩ := exec_poll_cycle h
  dsimp only [State.resetFor] at hlast hcursor htgt
  refine ⟨fun h0 => ?_, fun h0 => ?_, fun h0 => poll_rampLast_of_rampDue h (hramp.mpr h0), fun h0 => ?_⟩
  · rw [autoTick_of_due rfl (hcycle.mpr h0)] at hlast hcursor htgt
    exact ⟨htgt.trans (paletteRead_of_getElem? he), hlast, hcursor⟩
  · rw [autoTick_of_not_due fun _ => Bool.eq_false_of_not_eq_true (mt hcycle.mp h0.not_gt)] at hcursor htgt
    exact ⟨htgt, hcursor⟩
  · have hd := Bool.eq_false_of_not_eq_true (mt hramp.mp h0.not_ge)
    exact ⟨poll_keeps_cur h hd, poll_keeps_out h hd⟩

end Sys2Proof.Machine
end

section
/-! PROOF. The Mode Arbiter (spec/42_mode_arbiter.md): SETCOLOR and CONNECT, the transition table, the ways into auto mode,
and the runs that keep a commanded color or the startup guard. -/

namespace Sys2Proof.Machine

/-- R80, R200: what an edge answers to a must-be-zero bit under an assigned opcode. -/
theorem step_present_reserved {w : Word} {op : Nat} (ho : opcodeOf w = op) (h4 : op ≤ 4)
    (hz : w &&& mustBeZero op ≠ 0) (s : State) (now : Nat) :
    step (s.present w now) = .next { s with status := .reservedNonzero, events := .quiet } := by
  subst ho
  exact step_present_reject (decode_reserved_of_mustBeZero h4 hz) s now

/-- R133: the throttle's test over the integers. -/
theorem reportDue_iff (cfg : Config) (now : Nat) (s : Regs) : reportDue cfg now s = true ↔
    (cfg.reportInterval : Int) ≤ ((now : Int) - s.reportLast) % 2 ^ cfg.tw := elapsed_iff ..

theorem reportDue_eq_false_iff (cfg : Config) (now : Nat) (s : Regs) : reportDue cfg now s = false ↔
    ((now : Int) - s.reportLast) % 2 ^ cfg.tw < cfg.reportInterval := by
  rw [← Bool.not_eq_true, reportDue_iff, not_le]

/-- Settles O14: the operation's two equations, by `reportDue_iff`; the rejections by the must-be-zero bits. -/
theorem setColorResult : Obligations.SetColorResult := by
  refine ⟨fun s r g b T hT => ?_, fun s w now ho hz => step_present_reserved ho (by decide) hz s now⟩
  subst hT
  exact ⟨fun hd => exec_setColor_reported s ((reportDue_iff ..).mpr hd),
    fun hd => exec_setColor_throttled s ((reportDue_eq_false_iff ..).mpr hd)⟩

/-- Settles O16: the operation's two equations; the rejections by the must-be-zero bits. -/
theorem connectResult : Obligations.ConnectResult := by
  refine ⟨fun s hc => ?_, exec_connect_again, fun s w now ho hz => step_present_reserved ho (by decide) hz s now⟩
  rw [exec_connect_first s hc, setPowerAction, autoAfterPower_eq]
  simp only [eq_comm (a := true)]
  rfl

/-! The two flags after each command; after a POLL they are `exec_poll_frame`'s. -/

theorem exec_setPower_flags {v : Bool} {s t : State} (h : exec (.setPower v) s = .next t) :
    t.regs.power = v ∧ t.regs.auto = autoAfterPower v s.regs := by
  cases h
  exact ⟨rfl, rfl⟩

theorem exec_setColor_flags {r g b : Half} {s t : State} (h : exec (.setColor r g b) s = .next t) :
    t.regs.power = s.regs.power ∧ t.regs.auto = false := by
  cases hd : reportDue s.cfg s.now s.regs
  · rw [exec_setColor_throttled s hd] at h
    cases h
    exact ⟨rfl, rfl⟩
  · rw [exec_setColor_reported s hd] at h
    cases h
    exact ⟨rfl, rfl⟩

theorem exec_setBright_flags {x : Half} {s t : State} (h : exec (.setBright x) s = .next t) :
    t.regs.power = s.regs.power ∧ t.regs.auto = s.regs.auto := by
  cases h
  exact ⟨rfl, rfl⟩

theorem exec_connect_first_flags {s t : State} (h : exec .connect s = .next t) (hc : s.regs.connected = false) :
    t.regs.power = true ∧ t.regs.auto = autoAfterPower true s.regs := by
  rw [exec_connect_first s hc] at h
  cases h
  exact ⟨rfl, rfl⟩

theorem exec_connect_again_flags {s t : State} (h : exec .connect s = .next t) (hc : s.regs.connected = true) :
    t.regs.power = s.regs.power ∧ t.regs.auto = s.regs.auto := by
  rw [exec_connect_again s hc] at h
  cases h
  exact ⟨rfl, rfl⟩

/-- R131: a power action with the light already on keeps both flags. -/
theorem exec_connect_on_flags {s t : State} (h : exec .connect s = .next t) (hp : s.regs.power = true) :
    t.regs.power = s.regs.power ∧ t.regs.auto = s.regs.auto := by
  cases hc : s.regs.connected
  · obtain ⟨hpow, hauto⟩ := exec_connect_first_flags h hc
    exact ⟨hpow.trans hp.symm, by rw [hauto, ← hp, autoAfterPower_power]⟩
  · exact exec_connect_again_flags h hc

theorem exec_poll_flags {s t : State} (h : exec .poll s = .next t) :
    t.regs.power = s.regs.power ∧ t.regs.auto = s.regs.auto := by
  obtain ⟨hp, ha, _⟩ := exec_poll_frame h
  exact ⟨hp, ha⟩

theorem modeAuto_iff (s : Regs) : modeAuto s = true ↔ s.power = true ∧ s.auto = true := by simp [modeAuto]

theorem modeManual_iff (s : Regs) : modeManual s = true ↔ s.power = true ∧ s.auto = false := by simp [modeManual]

theorem modeOff_iff (s : Regs) : modeOff s = true ↔ s.power = false ∧ s.auto = false := by simp [modeOff]

section
variable {s t : State}

/-- R136, the row of `AUTO`. -/
theorem transitions_from_auto (hp : s.regs.power = true) (ha : s.regs.auto = true) :
    (exec (.setPower true) s = .next t → modeAuto t.regs = true) ∧
    (exec (.setPower false) s = .next t → modeOff t.regs = true) ∧
    (∀ r g b, exec (.setColor r g b) s = .next t → modeManual t.regs = true) ∧
    (∀ x, exec (.setBright x) s = .next t → modeAuto t.regs = true) ∧
    (exec .connect s = .next t → modeAuto t.regs = true) ∧
    (exec .poll s = .next t → modeAuto t.regs = true) := by
  simp only [modeAuto_iff, modeManual_iff, modeOff_iff]
  refine ⟨fun h => ?_, fun h => ?_, fun r g b h => ?_, fun x h => ?_, fun h => ?_, fun h => ?_⟩
  · simpa [autoAfterPower, hp, ha] using exec_setPower_flags h
  · simpa [autoAfterPower, hp, ha] using exec_setPower_flags h
  · simpa [hp] using exec_setColor_flags h
  · simpa [hp, ha] using exec_setBright_flags h
  · simpa [hp, ha] using exec_connect_on_flags h hp
  · simpa [hp, ha] using exec_poll_flags h

/-- R136, the row of `MANUAL`. -/
theorem transitions_from_manual (hp : s.regs.power = true) (ha : s.regs.auto = false) :
    (exec (.setPower true) s = .next t → modeManual t.regs = true) ∧
    (exec (.setPower false) s = .next t → modeOff t.regs = true) ∧
    (∀ r g b, exec (.setColor r g b) s = .next t → modeManual t.regs = true) ∧
    (∀ x, exec (.setBright x) s = .next t → modeManual t.regs = true) ∧
    (exec .connect s = .next t → modeManual t.regs = true) ∧
    (exec .poll s = .next t → modeManual t.regs = true) := by
  simp only [modeManual_iff, modeOff_iff]
  refine ⟨fun h => ?_, fun h => ?_, fun r g b h => ?_, fun x h => ?_, fun h => ?_, fun h => ?_⟩
  · simpa [autoAfterPower, hp, ha] using exec_setPower_flags h
  · simpa [autoAfterPower, hp, ha] using exec_setPower_flags h
  · simpa [hp] using exec_setColor_flags h
  · simpa [hp, ha] using exec_setBright_flags h
  · simpa [hp, ha] using exec_connect_on_flags h hp
  · simpa [hp, ha] using exec_poll_flags h

/-- R136, the row of `OFF`. -/
theorem transitions_from_off (hp : s.regs.power = false) (ha : s.regs.auto = false) :
    (exec (.setPower true) s = .next t → modeAuto t.regs = true) ∧
    (exec (.setPower false) s = .next t → modeOff t.regs = true) ∧
    (∀ r g b, exec (.setColor r g b) s = .next t → modeOff t.regs = true) ∧
    (∀ x, exec (.setBright x) s = .next t → modeOff t.regs = true) ∧
    (exec .connect s = .next t → s.regs.connected = false → modeAuto t.regs = true) ∧
    (exec .connect s = .next t → s.regs.connected = true → modeOff t.regs = true) ∧
    (exec .poll s = .next t → modeOff t.regs = true) := by
  simp only [modeAuto_iff, modeOff_iff]
  refine ⟨fun h => ?_, fun h => ?_, fun r g b h => ?_, fun x h => ?_, fun h hc => ?_, fun h hc => ?_, fun h => ?_⟩
  · simpa [autoAfterPower, hp, ha] using exec_setPower_flags h
  · simpa [autoAfterPower, hp, ha] using exec_setPower_flags h
  · simpa [hp] using exec_setColor_flags h
  · simpa [hp, ha] using exec_setBright_flags h
  · simpa [autoAfterPower, hp, ha] using exec_connect_first_flags h hc
  · simpa [hp, ha] using exec_connect_again_flags h hc
  · simpa [hp, ha] using exec_poll_flags h

end

/-- Settles O39: the three rows of the table. -/
theorem arbiterTransitionTable : Obligations.ArbiterTransitionTable := by
  refine fun s t => ⟨fun h => ?_, fun h => ?_, fun h => ?_⟩
  · obtain ⟨hp, ha⟩ := (modeAuto_iff _).mp h
    exact transitions_from_auto hp ha
  · obtain ⟨hp, ha⟩ := (modeManual_iff _).mp h
    exact transitions_from_manual hp ha
  · obtain ⟨hp, ha⟩ := (modeOff_iff _).mp h
    exact transitions_from_off hp ha

/-- Settles O40: the writers of `auto` (`step_auto_writers`): a SETCOLOR clears it, a power change copies the power. -/
theorem onlyWaysIntoAutoMode : Obligations.OnlyWaysIntoAutoMode := by
  intro s t h ha ha'
  cases hr : nextReset s
  · rcases step_auto_writers h hr (by simp [ha, ha']) with ⟨hne, e⟩ | ⟨_, e⟩
    · have hp : t.regs.power = true := e.symm.trans ha'
      exact .inr ⟨by simpa [hp] using hne.symm, hp⟩
    · simp [ha'] at e
  · exact .inl rfl

/-- An edge in manual mode that is neither a reset edge nor a SETCOLOR keeps the targets. -/
theorem step_keeps_tgt_of_manual {s t : State} (h : step s = .next t) (hr : nextReset s = false)
    (ha : s.regs.auto = false) (hop : ∀ r g b, nextOp s ≠ some (.setColor r g b)) : t.regs.tgt = s.regs.tgt := by
  rcases step_effect h hr with ⟨_, e, _⟩ | ⟨_, e, _⟩ | ⟨v, _, e, _⟩ | ⟨r, g, b, op, _⟩ | ⟨r, g, b, op, _⟩ |
    ⟨x, _, e, _⟩ | ⟨_, _, e, _⟩ | ⟨_, _, e, _⟩
  · rw [e]
  · rw [e, pollRegs_tgt, if_neg (ne_true_of_eq_false ha)]
  · simp [e]
  · exact absurd op (hop r g b)
  · exact absurd op (hop r g b)
  · simp [e]
  · simp [e]
  · rw [e]

/-- So does a run of such edges. -/
theorem after_keeps_tgt_of_manual {n : Nat} {s t : State} (h : after n s = some t)
    (hr : everyEdge (fun u => nextReset u = false ∧ u.regs.auto = false ∧
      ∀ r g b, nextOp u ≠ some (.setColor r g b)) n s) : t.regs.tgt = s.regs.tgt := by
  induction n generalizing s with
  | zero =>
    cases h
    rfl
  | succ n ih =>
    obtain ⟨u, hu, hut⟩ := after_succ_split h
    obtain ⟨⟨hr0, ha, hop⟩, hrn⟩ := everyEdge_succ hr hu
    exact (ih hut hrn).trans (step_keeps_tgt_of_manual hu hr0 ha hop)

/-- Settles O41: SETCOLOR stores the clamped targets, and the run keeps them. -/
theorem manualColorHolds : Obligations.ManualColorHolds := by
  intro n s t u r g b ht hu hr
  obtain ⟨_, htgt⟩ := exec_setColor_cur_tgt ht
  exact (after_keeps_tgt_of_manual hu hr).trans htgt

/-- R135: after a CONNECT the startup guard is set. -/
theorem exec_connect_connected {s t : State} (h : exec .connect s = .next t) : t.regs.connected = true := by
  cases hc : s.regs.connected
  · rw [exec_connect_first s hc] at h
    cases h
    rfl
  · rw [exec_connect_again s hc] at h
    cases h
    exact hc

/-- R27: no edge but a reset edge clears the startup guard. -/
theorem step_keeps_connected {s t : State} (h : step s = .next t) (hr : nextReset s = false)
    (hc : s.regs.connected = true) : t.regs.connected = true := by
  rcases step_effect h hr with ⟨_, e, _⟩ | ⟨_, e, _⟩ | ⟨v, _, e, _⟩ | ⟨r, g, b, _, _, e, _⟩ | ⟨r, g, b, _, _, e, _⟩ |
    ⟨x, _, e, _⟩ | ⟨_, _, e, _⟩ | ⟨_, _, e, _⟩
  · rw [e, hc]
  · simp [e, pollRegs, hc]
  · simp [e, hc]
  · simp [e, hc]
  · simp [e, hc]
  · simp [e, hc]
  · rw [e]
  · rw [e, hc]

/-- Nor does a run. -/
theorem after_keeps_connected {n : Nat} {s t : State} (h : after n s = some t)
    (hr : everyEdge (fun u => nextReset u = false) n s) (hc : s.regs.connected = true) :
    t.regs.connected = true := by
  induction n generalizing s with
  | zero =>
    cases h
    exact hc
  | succ n ih =>
    obtain ⟨u, hu, hut⟩ := after_succ_split h
    obtain ⟨hr0, hrn⟩ := everyEdge_succ hr hu
    exact ih hut hrn (step_keeps_connected hu hr0 hc)

/-- Settles O42: the guard set by the first CONNECT stands at the second, which is then the silent no-op. -/
theorem startupEventFiresOnce : Obligations.StartupEventFiresOnce := by
  intro n s t u v ht hu hr hv
  have hc : u.regs.connected = true := after_keeps_connected hu hr (exec_connect_connected ht)
  rw [exec_connect_again u hc] at hv
  cases hv
  exact ⟨hc, rfl, rfl⟩

end Sys2Proof.Machine
end

section
/-! PROOF. What each operation depends on: brightness (spec/44_output_driver.md R166), the time input
(spec/45_control_loop.md R183), `TIME_UNIT` (spec/00_scope.md R7); and what re-sending a command does (spec/60_exceptions.md
section 1). -/

namespace Sys2Proof.Machine

/-! Brightness. -/

/-- R23: at an edge without reset, brightness changes by a SETBRIGHT only. -/
theorem step_bright_writer {s t : State} (h : step s = .next t) (hr : nextReset s = false)
    (hb : t.regs.bright ≠ s.regs.bright) : ∃ x, nextOp s = some (.setBright x) ∧ t.regs.bright = clamp8 x := by
  rcases step_effect h hr with ⟨_, e, _⟩ | ⟨_, e, _⟩ | ⟨v, _, e, _⟩ | ⟨r, g, b, _, _, e, _⟩ | ⟨r, g, b, _, _, e, _⟩ |
    ⟨x, op, e, _⟩ | ⟨_, _, e, _⟩ | ⟨_, _, e, _⟩
  · exact absurd (by rw [e]) hb
  · exact absurd (by simp [e, pollRegs]) hb
  · exact absurd (by simp [e]) hb
  · exact absurd (by simp [e]) hb
  · exact absurd (by simp [e]) hb
  · exact ⟨x, op, by rw [e, setBrightnessTarget_bright]⟩
  · exact absurd (by simp [e]) hb
  · exact absurd (by rw [e]) hb

/-- The auto-cycle half of POLL neither reads nor writes brightness. -/
theorem autoTick_update_bright (cfg : Config) (now : Nat) (s : Regs) (b : Byte) :
    autoTick cfg now { s with bright := b } = { autoTick cfg now s with bright := b } := by
  rcases autoTick_cases cfg now s with ⟨ha, hd, e⟩ | ⟨hn, e⟩ <;> rw [e]
  · exact autoTick_of_due ha hd
  · refine autoTick_of_not_due fun ha => ?_
    rcases hn with hn | hn
    · exact absurd ha (ne_true_of_eq_false hn)
    · exact hn

/-- The ramp half reads it for the outputs only. -/
theorem rampTick_update_bright (cfg : Config) (now : Nat) (s : Regs) (b : Byte) :
    rampTick cfg now { s with bright := b } =
      { rampTick cfg now s with bright := b, out := (rampTick cfg now { s with bright := b }).out } := by
  have hdue : rampDue cfg now { s with bright := b } = rampDue cfg now s := rampDue_congr rfl cfg now
  cases hd : rampDue cfg now s
  · rw [rampTick_of_not_due (hdue.trans hd), rampTick_of_not_due hd]
  · rw [rampTick_of_due (hdue.trans hd), rampTick_of_due hd]
    rfl

/-- R23: two states that differ in brightness alone differ after a POLL at most in brightness and outputs. -/
theorem pollRegs_update_bright (cfg : Config) (now : Nat) (s : Regs) (b : Byte) :
    pollRegs cfg now { s with bright := b } =
      { pollRegs cfg now s with
        bright := (pollRegs cfg now { s with bright := b }).bright
        out := (pollRegs cfg now { s with bright := b }).out } := by
  have hb : (pollRegs cfg now { s with bright := b }).bright = b := by simp [pollRegs]
  rw [hb]
  simp only [pollRegs, autoTick_update_bright]
  exact rampTick_update_bright ..

/-- R23: after any operation. -/
theorem exec_update_bright {i : Instr} {s t u : State} {b : Byte} (h : exec i s = .next t)
    (hu : exec i { s with regs := { s.regs with bright := b } } = .next u) :
    u = { t with regs := { t.regs with bright := u.regs.bright, out := u.regs.out } } ∧
    (i ≠ .poll → u.regs.out = t.regs.out) := by
  cases i with
  | poll =>
    rw [exec_poll] at h hu
    cases h
    cases hu
    exact ⟨congrArg (State.complete · .quiet s) (pollRegs_update_bright ..), fun hi => absurd rfl hi⟩
  | setPower v => cases h; cases hu; exact ⟨rfl, fun _ => rfl⟩
  | setColor r g b' =>
    cases hd : reportDue s.cfg s.now s.regs
    · rw [exec_setColor_throttled _ (by exact hd)] at h hu; cases h; cases hu; exact ⟨rfl, fun _ => rfl⟩
    · rw [exec_setColor_reported _ (by exact hd)] at h hu; cases h; cases hu; exact ⟨rfl, fun _ => rfl⟩
  | setBright x => cases h; cases hu; exact ⟨rfl, fun _ => rfl⟩
  | connect =>
    cases hc : s.regs.connected
    · rw [exec_connect_first _ (by exact hc)] at h hu; cases h; cases hu; exact ⟨rfl, fun _ => rfl⟩
    · rw [exec_connect_again _ (by exact hc)] at h hu; cases h; cases hu; exact ⟨rfl, fun _ => rfl⟩

/-- Settles O38: its one writer, and that no operation but a POLL's Output Driver reads it. -/
theorem brightnessReadOnlyByOutputs : Obligations.BrightnessReadOnlyByOutputs := by
  refine ⟨fun cfg => rfl, fun cfg s hp c => ?_, fun s t => step_bright_writer, fun i s t u b => exec_update_bright⟩
  rw [outputDriver_out, Rgb_map_get, outputLevel_eq, if_pos hp, currentDutyCycles, Rgb_map_get]
  rfl

/-! Re-sending a command. -/

/-- R133: SETCOLOR, reported or throttled, up to the throttle's stamp. -/
theorem exec_setColor_regs {r g b : Half} {s t : State} (h : exec (.setColor r g b) s = .next t) :
    t.regs = { manualColor (clampColor r g b) s.regs with reportLast := t.regs.reportLast } ∧
    t.events.state = none ∧ t.events.bright = none := by
  cases hd : reportDue s.cfg s.now s.regs
  · rw [exec_setColor_throttled s hd] at h
    cases h
    exact ⟨rfl, rfl, rfl⟩
  · rw [exec_setColor_reported s hd] at h
    cases h
    exact ⟨rfl, rfl, rfl⟩

/-- R135: CONNECT, the first or a later one, raises no brightness event. -/
theorem exec_connect_events_bright {s t : State} (h : exec .connect s = .next t) : t.events.bright = none := by
  cases hc : s.regs.connected
  · rw [exec_connect_first s hc] at h
    cases h
    rfl
  · rw [exec_connect_again s hc] at h
    cases h
    rfl

/-- Re-sending a command: the writes are the same, and the events follow the throttle and the guard. -/
theorem exec_resend {i : Instr} {s t u : State} {now : Nat} (hi : i ≠ .poll) (h : exec i s = .next t)
    (hu : exec i { t with now := now } = .next u) :
    u.regs = { t.regs with reportLast := u.regs.reportLast } ∧
    (t.events.state ≠ none → i ≠ .connect → u.events.state = t.events.state) ∧
    u.events.bright = t.events.bright ∧ (i = .connect → u.events = ⟨none, none, none⟩) := by
  cases i with
  | poll => exact absurd rfl hi
  | setPower v =>
    rw [exec_setPower] at h hu
    cases h
    cases hu
    exact ⟨setPowerAction_idem v s.regs, fun _ _ => rfl, rfl, nofun⟩
  | setColor r g b =>
    obtain ⟨ht, hts, htb⟩ := exec_setColor_regs h
    obtain ⟨hu', _, hub⟩ := exec_setColor_regs hu
    refine ⟨?_, fun hn => absurd hts hn, hub.trans htb.symm, nofun⟩
    rw [hu', ht]
    rfl
  | setBright x =>
    cases h
    cases hu
    exact ⟨rfl, fun _ _ => rfl, rfl, nofun⟩
  | connect =>
    have hc : t.regs.connected = true := exec_connect_connected h
    rw [exec_connect_again { t with now := now } hc] at hu
    cases hu
    exact ⟨rfl, fun _ hn => absurd rfl hn, (exec_connect_events_bright h).symm, fun _ => rfl⟩

/-- Two POLLs, each at the ramp interval, from reset: the second one moves the current values again. -/
theorem exists_poll_not_idempotent : ∃ (s t u : State) (now : Nat), s.Inv ∧ exec .poll s = .next t ∧
    exec .poll { t with now := now } = .next u ∧ u.regs.cur ≠ t.regs.cur := by
  refine ⟨{ State.resetFor Config.small with now := 5 }, _, _, 10, ?_, exec_poll _, exec_poll _, by decide⟩
  exact ⟨Config.small_wf, Regs.reset_inv Config.small_wf, by decide⟩

/-- Settles O49: `exec_resend` for the commands; for POLL, two firings in a row. -/
theorem commandsIdempotentOnState : Obligations.CommandsIdempotentOnState :=
  ⟨fun _ _ _ _ _ => exec_resend, exists_poll_not_idempotent⟩

/-! The time input. -/

/-- R183: SETPOWER, SETBRIGHT and CONNECT do not read the sampled time. -/
theorem exec_update_now {i : Instr} {s t u : State} {now : Nat} (hp : i ≠ .poll)
    (hcol : ∀ r g b, i ≠ .setColor r g b) (h : exec i s = .next t) (hu : exec i { s with now := now } = .next u) :
    u = { t with now := now } := by
  cases i with
  | poll => exact absurd rfl hp
  | setPower v => cases h; cases hu; rfl
  | setColor r g b => exact absurd rfl (hcol r g b)
  | setBright x => cases h; cases hu; rfl
  | connect =>
    cases hc : s.regs.connected
    · rw [exec_connect_first _ (by exact hc)] at h hu; cases h; cases hu; rfl
    · rw [exec_connect_again _ (by exact hc)] at h hu; cases h; cases hu; rfl

/-- R224: SETCOLOR reports exactly when the throttle is due at the sampled time, which it then stores. -/
theorem exec_setColor_report {r g b : Half} {s t : State} (h : exec (.setColor r g b) s = .next t) :
    (t.events.color ≠ none ↔ reportDue s.cfg s.now s.regs = true) ∧
    t.regs.reportLast = if t.events.color ≠ none then s.now else s.regs.reportLast := by
  cases hd : reportDue s.cfg s.now s.regs
  · rw [exec_setColor_throttled s hd] at h
    cases h
    simp
  · rw [exec_setColor_reported s hd] at h
    cases h
    simp

/-- Settles O50: three operations ignore the time (`exec_update_now`); the other two are executed at the presented one. -/
theorem onlyPollAndSetColorReadNow : Obligations.OnlyPollAndSetColorReadNow := by
  refine ⟨fun i s t u now => exec_update_now, fun s t w now hw h => ?_, fun s t w r g b now hw h => ?_⟩
  · rw [step_present_op hw, exec_poll] at h
    cases h
    rfl
  · rw [step_present_op hw] at h
    exact exec_setColor_report h

/-! `TIME_UNIT`. -/

/-- The same state under another `TIME_UNIT`. -/
def withTimeUnit (x : Nat) (s : State) : State := { s with cfg := { s.cfg with timeUnitNs := x } }

/-- R7: no operation reads `TIME_UNIT`. -/
theorem exec_withTimeUnit (x : Nat) {i : Instr} {s t : State} (h : exec i s = .next t) :
    exec i (withTimeUnit x s) = .next (withTimeUnit x t) := by
  cases i with
  | poll => cases h; rfl
  | setPower v => cases h; rfl
  | setColor r g b =>
    cases hd : reportDue s.cfg s.now s.regs
    · rw [exec_setColor_throttled s hd] at h
      cases h
      exact exec_setColor_throttled (withTimeUnit x s) hd
    · rw [exec_setColor_reported s hd] at h
      cases h
      exact exec_setColor_reported (withTimeUnit x s) hd
  | setBright v => cases h; rfl
  | connect =>
    cases hc : s.regs.connected
    · rw [exec_connect_first s hc] at h
      cases h
      exact exec_connect_first (withTimeUnit x s) hc
    · rw [exec_connect_again s hc] at h
      cases h
      exact exec_connect_again (withTimeUnit x s) hc

/-- Nor does a presented word, whether it is run or rejected. -/
theorem runWord_withTimeUnit (x : Nat) {w : Word} {now : Nat} {s t : State} (h : runWord w now s = .next t) :
    runWord w now (withTimeUnit x s) = .next (withTimeUnit x t) := by
  unfold runWord at h ⊢
  cases hd : decode w with
  | op i =>
    rw [hd] at h
    exact exec_withTimeUnit x h
  | reject why =>
    rw [hd] at h
    cases h
    rfl

/-- Nor does an edge with given input ports. -/
theorem clockEdge_withTimeUnit (x : Nat) {c : HostCycle} {s t : State} (h : clockEdge c s = .next t) :
    clockEdge c (withTimeUnit x s) = .next (withTimeUnit x t) := by
  unfold clockEdge at h ⊢
  cases hr : c.rst <;> cases hv : c.cmdValid <;> simp only [hr, hv, if_true, Bool.false_eq_true, if_false] at h ⊢
  · cases h; rfl
  · exact runWord_withTimeUnit x h
  · cases h; rfl
  · cases h; rfl

/-- R184: a host that presents nothing. -/
theorem step_nil {s : State} (h : s.host = []) : step s = .next s.idle := by
  simp [step, nextEdge, h]

/-- R84: a host that presents a port cycle. -/
theorem step_cons {s : State} {c : HostCycle} {rest : List HostCycle} (h : s.host = c :: rest) :
    step s = clockEdge c { s with host := rest } := by
  simp [step, nextEdge, h]

/-- Nor does a step. -/
theorem step_withTimeUnit (x : Nat) {s t : State} (h : step s = .next t) :
    step (withTimeUnit x s) = .next (withTimeUnit x t) := by
  cases hh : s.host with
  | nil =>
    rw [step_nil hh] at h
    cases h
    exact step_nil (s := withTimeUnit x s) hh
  | cons c rest =>
    rw [step_cons hh] at h
    rw [step_cons (s := withTimeUnit x s) hh]
    exact clockEdge_withTimeUnit x h

/-- Settles O55: the step commutes with a change of `TIME_UNIT`. -/
theorem timeUnitNeverRead : Obligations.TimeUnitNeverRead := fun _ _ _ x h hu =>
  Host.Outcome.next.inj (hu.symm.trans (step_withTimeUnit x h))

end Sys2Proof.Machine
end

section
/-! PROOF. The ports (spec/30_encoding.md R84), the tables (spec/20_memory.md section 1), the configuration
(spec/00_scope.md R10), idle cycles and reset (spec/70_reset_and_hazards.md R240). -/

namespace Sys2Proof.Machine

/-! The ports. -/

/-- R56: the packed triple as a number. -/
theorem packColor_toNat (x : Rgb Byte) :
    (packColor x).toNat = x.r.toNat * 65536 + x.g.toNat * 256 + x.b.toNat := by
  have hg := x.g.isLt
  have hb := x.b.isLt
  rw [packColor, BitVec.toNat_append, BitVec.toNat_append, ← Nat.shiftLeft_add_eq_or_of_lt hb,
    ← Nat.shiftLeft_add_eq_or_of_lt hg, Nat.shiftLeft_eq, Nat.shiftLeft_eq]
  omega

/-- R56: packing loses no bit. -/
theorem packColor_inj {x y : Rgb Byte} (h : packColor x = packColor y) : x = y := by
  have hn := congrArg BitVec.toNat h
  rw [packColor_toNat, packColor_toNat] at hn
  have := x.g.isLt
  have := x.b.isLt
  have := y.g.isLt
  have := y.b.isLt
  refine Rgb_ext_get fun c => BitVec.eq_of_toNat_eq ?_
  cases c <;> simp only [Rgb.get] <;> omega

/-- R31: an output register in range shows whole on its port. -/
theorem portDuty_get_toNat {s : State} (h : s.Inv) (c : Channel) :
    ((portDuty s).get c).toNat = s.regs.out.get c := by
  obtain ⟨_, _, ⟨_, _, hmax⟩, _⟩ := h.config
  rw [portDuty, Rgb_map_get, BitVec.toNat_ofNat]
  exact Nat.mod_eq_of_lt ((h.regs.outInRange c).trans_lt hmax)

/-- R212: a SETCOLOR that reports shows the clamped triple, packed, and no other event. -/
theorem exec_setColor_port {s : State} {r g b : Half} (hd : reportDue s.cfg s.now s.regs = true) :
    ∃ (t : State) (p : BitVec 24), exec (.setColor r g b) s = .next t ∧ portEvtColor t = some p ∧
      p.toNat = min r.toNat 255 * 65536 + min g.toNat 255 * 256 + min b.toNat 255 ∧
      portEvtState t = none ∧ portEvtBright t = none := by
  refine ⟨_, packColor (clampColor r g b), exec_setColor_reported s hd, rfl, ?_, rfl, rfl⟩
  rw [packColor_toNat]
  simp only [clampColor, clamp8_toNat]

/-- R211: a CONNECT shows a state event when it is the first, and no other. -/
theorem exec_connect_ports {s t : State} (h : exec .connect s = .next t) :
    portEvtState t = (if s.regs.connected = true then none else some true) ∧
    portEvtColor t = none ∧ portEvtBright t = none := by
  cases hc : s.regs.connected
  · rw [exec_connect_first s hc] at h
    cases h
    exact ⟨rfl, rfl, rfl⟩
  · rw [exec_connect_again s hc] at h
    cases h
    exact ⟨rfl, rfl, rfl⟩

/-- Settles O51: packing as a number, the duty ports by the invariant, and each operation's events by its equation. -/
theorem portsCarryPayloads : Obligations.PortsCarryPayloads := by
  refine ⟨packColor_toNat, fun x y => packColor_inj, fun s h => portDuty_get_toNat h,
    fun s => ⟨fun x hx => by rw [portEvtColor, hx, Option.map_some], fun hx => by rw [portEvtColor, hx, Option.map_none],
      rfl, rfl⟩,
    fun s t v h => ?_, fun s t => exec_connect_ports, fun s r g b => exec_setColor_port, fun s t r g b hd h => ?_,
    fun s t x h => ?_, fun s t h => ?_⟩
  · cases h
    exact ⟨rfl, rfl, rfl⟩
  · rw [exec_setColor_throttled s hd] at h
    cases h
    exact ⟨rfl, rfl, rfl⟩
  · cases h
    exact ⟨rfl, rfl, rfl⟩
  · cases h
    exact ⟨rfl, rfl, rfl⟩

/-! The tables and the configuration. -/

/-- R24: the cursor's width holds every palette index. -/
theorem palLen_le_two_pow_cursorBits (cfg : Config) : cfg.palLen ≤ 2 ^ cfg.cursorBits :=
  (Nat.le_pow_clog (by decide) cfg.palLen).trans (Nat.pow_le_pow_right (by decide) (Nat.le_max_right ..))

/-- Settles O53: every `u8` is an index of GAMMA; below `PAL_LEN` a palette read is the entry there. -/
theorem tableReadsGiveEntries : Obligations.TableReadsGiveEntries := by
  refine ⟨fun cfg x => ?_, fun cfg i => getElem?_eq_paletteRead,
    fun s h => getElem?_eq_paletteRead h.regs.cursorInPalette,
    fun s h => h.regs.cursorInPalette.trans_le (palLen_le_two_pow_cursorBits s.cfg)⟩
  rw [gammaRead_eq]
  exact Vector.getElem?_eq_getElem x.isLt

/-- Settles O54: floor division by the palette length, which is not 0 in a well-formed configuration. -/
theorem cycleIntervalIsFloor : Obligations.CycleIntervalIsFloor := by
  refine ⟨fun cfg h => ?_, by decide, by decide⟩
  obtain ⟨_, hpos, _⟩ := h
  exact ⟨Nat.mul_div_le .., (Nat.lt_mul_div_succ _ hpos).trans_eq (Nat.mul_succ ..)⟩

/-! Idle cycles and reset. -/

/-- Settles O12: both kinds of idle cycle are `State.idle`. -/
theorem idleCycleChangesNothing : Obligations.IdleCycleChangesNothing := fun s w t =>
  ⟨step_cons (s := { s with host := ⟨false, false, w, t⟩ :: s.host }) rfl, step_nil (s := { s with host := [] }) rfl⟩

/-- Settles O56: the reset state as written, and its stamps evaluated. -/
theorem resetValues : Obligations.ResetValues :=
  ⟨fun _ => rfl, rfl, by decide, by decide, by decide, by decide⟩

/-- Settles O57: a reset edge is `State.applyReset`, whose block state the configuration alone determines. -/
theorem nothingPersistsAcrossReset : Obligations.NothingPersistsAcrossReset := by
  refine ⟨fun s valid w now => step_cons (s := { s with host := ⟨true, valid, w, now⟩ :: s.host }) rfl,
    fun s s' t t' hcfg hr hr' h h' => ?_, fun s t hr h => ?_⟩
  · obtain ⟨e, _⟩ := step_reset h hr
    obtain ⟨e', _⟩ := step_reset h' hr'
    rw [e, e', hcfg]
  · obtain ⟨e, _⟩ := step_reset h hr
    rw [e]
    exact ⟨rfl, rfl⟩

end Sys2Proof.Machine
end
